-- ==== Sys2Proof/Word.lean ====
section
/-!
DEFINITION. The word types of the block (spec/00_scope.md R8, R9): every register, field and byte
is an unsigned number of its stated width.
-/
namespace Sys2Proof

/-- A byte of PBUF or of a packet. -/
abbrev Byte := BitVec 8

/-- A 16-bit field: identifier, sequence, checksum, OFF and LEN operands. -/
abbrev Half := BitVec 16

/-- A register, a command word, the data of a host access. -/
abbrev Word := BitVec 32

/-- A 64-bit timestamp pattern. -/
abbrev DWord := BitVec 64

end Sys2Proof
end

