-- ==== Sys2Proof/Syntax.lean ====
section
/-!
DEFINITION. The commands of the block, one constructor per row of spec/opcode_table.json
(spec/30_encoding.md R58). A command word holds no operand (R60), so no constructor has a field.
-/
namespace Sys2Proof

/-- A command, as the host writes it to CMD. -/
inductive Instr where
  /-- NOP, spec/40_dispatch.md R77. -/
  | nop
  /-- CSUM, spec/41_checksum.md R86. -/
  | csum
  /-- ENCODE, spec/42_encoder.md R90. -/
  | encode
  /-- PARSE, spec/43_parser.md R99. -/
  | parse
  /-- MATCH, spec/43_parser.md R106. -/
  | matchReply
  deriving DecidableEq, Repr

end Sys2Proof
end

