-- ==== Sys2Proof/Decode.lean ====
section
/-!
DEFINITION. The command word: its fields, its decoder, its encoder (spec/30_encoding.md R57 to R61,
spec/40_dispatch.md R75). The word is one 32-bit number, never bytes: CMD is accessed 32 bits at a
time (spec/20_memory.md R45, R46; log 12).
-/
namespace Sys2Proof

/-- Why a command word is illegal (spec/30_encoding.md R59). -/
inductive IllegalWord where
  /-- RSV, bits 31:4, is not zero. -/
  | reservedBits
  /-- RSV is zero and OP is 0x5 to 0xF. -/
  | unusedOp
  deriving DecidableEq, Repr

/-- What a command word decodes to: a command, or the illegal outcome with its name (R61). -/
inductive Decoded where
  | cmd (i : Instr)
  | illegal (why : IllegalWord)
  deriving DecidableEq, Repr

/-- OP, bits 3:0 of the command word (R57). -/
def opField (w : Word) : BitVec 4 := w.extractLsb' 0 4

/-- RSV, bits 31:4 of the command word (R57). -/
def rsvField (w : Word) : BitVec 28 := w.extractLsb' 4 28

/-- The command OP selects (R58, R75). -/
def decodeOp (op : BitVec 4) : Decoded :=
  match op.toNat with
  | 0x0 => .cmd .nop
  | 0x1 => .cmd .csum
  | 0x2 => .cmd .encode
  | 0x3 => .cmd .parse
  | 0x4 => .cmd .matchReply
  | _ => .illegal .unusedOp

/-- The decoder, total on every word (R61, R75). -/
def decode (w : Word) : Decoded :=
  if rsvField w = 0 then decodeOp (opField w) else .illegal .reservedBits

/-- The command word of a command: the match column of R58. -/
def encode : Instr → Word
  | .nop => 0x00000000#32
  | .csum => 0x00000001#32
  | .encode => 0x00000002#32
  | .parse => 0x00000003#32
  | .matchReply => 0x00000004#32

/-- The command word whose low `nbits` bits are those of `w`, the bits above them zero. -/
def tableWord (nbits w : Nat) : Word := BitVec.ofNat 32 (w % 2 ^ nbits)

/-- The command read from the low `nbits` bits of `w`, numbered as spec/opcode_table.json numbers
them. Every command is one 32-bit word and there is no longer one (R57). -/
def decodeTableWord (nbits w : Nat) : Option Instr :=
  if nbits ≤ 32 then
    match decode (tableWord nbits w) with
    | .cmd i => some i
    | .illegal _ => none
  else none

end Sys2Proof
end

