-- ==== Sys2Proof/Config.lean ====
section
/-!
DEFINITION. What an implementation fixes (the parameters of spec/00_scope.md R8) and the free
values the spec leaves open. A free value is a constant without a body: no proof can see it.
-/
namespace Sys2Proof

/-- The parameters of the block (spec/00_scope.md R8). They stand in the state, where no step
changes them, so that a statement about every state is one for every parameter (log 3). -/
structure Params where
  /-- BUF_SIZE, the bytes in PBUF: 36 to 4096 (decision D6). -/
  bufSize : Nat
  /-- BASE, the bus address of register offset 0x000 (decision D30). -/
  base : Nat
  deriving DecidableEq, Repr

/-- The parameters `State.reset` has: the spec's default BUF_SIZE of 1024 (R8); BASE is open, and
0 is a DESIGN CHOICE (log 3, unsafe if a claim leans on it). -/
def Params.standard : Params := { bufSize := 1024, base := 0 }

/-- Free value: what PBUF byte `a` holds as long as nothing has written it (spec/20_memory.md R44:
an arbitrary value, fixed once drawn until the byte is written). Log 4. -/
opaque Config.powerUpByte : Nat → Byte

/-- Free value: whether byte `k` of the packet of the `d`-th ENCODE that a reset interrupted holds
its new value (true) or its old one (false) (spec/70_reset_and_hazards.md R133). Log 7. -/
opaque Config.resetDraw : Nat → Nat → Bool

end Sys2Proof
end

