-- ==== Sys2Proof/Machine/Port.lean ====
section
/-!
DEFINITION. The slave port and the reset input as data (spec/00_scope.md R5): host transactions
(spec/30_encoding.md R69), the names of the registers (spec/10_state.md R15), and the events the
host can cause.
-/
namespace Sys2Proof.Machine

/-- Direction of a host access. -/
inductive Dir where
  | read
  | write
  deriving DecidableEq, Repr

/-- Width of a host access: 8, 16 or 32 bits (spec/00_scope.md R5). -/
inductive Width where
  | w8
  | w16
  | w32
  deriving DecidableEq, Repr

/-- Bytes of an access of this width. -/
def Width.bytes : Width → Nat
  | .w8 => 1
  | .w16 => 2
  | .w32 => 4

/-- A host transaction, the tuple of spec/30_encoding.md R69. The offset is a plain number, so that
the accesses at or above 0x2000 that spec/20_memory.md R45 refuses can be written down too (log 13). `data`
is the write data or the read result; the host that asks for a read gives none, so a read ignores it,
and `Transaction.completed` puts the result there. -/
structure Transaction where
  dir : Dir
  width : Width
  offset : Nat
  data : Word
  deriving DecidableEq, Repr

/-- The named registers of spec/10_state.md R15. -/
inductive RegName where
  | ctrl
  | ident
  | seq
  | txtsLo
  | txtsHi
  | off
  | len
  | cmd
  | status
  | result
  | rxhdr0
  | rxhdr1
  | rxtsLo
  | rxtsHi
  | info
  deriving DecidableEq, Repr

/-- What a host access that is not refused addresses. -/
inductive Target where
  /-- A register of spec/10_state.md R15. -/
  | reg (r : RegName)
  /-- A register offset with no register (R37). -/
  | unmapped
  /-- PBUF byte index `a` of the window (spec/20_memory.md R40, R42). -/
  | window (a : Nat)
  deriving DecidableEq, Repr

/-- Something the outside world does to the block. One step serves one event (log 1). -/
inductive Event where
  /-- A host access at an offset from BASE. -/
  | access (t : Transaction)
  /-- A host access at a bus address; the block starts at BASE (spec/20_memory.md R49). -/
  | busAccess (dir : Dir) (width : Width) (address : Nat) (data : Word)
  /-- The reset input takes this level: true asserts it, false releases it
  (spec/70_reset_and_hazards.md R128). -/
  | rst (level : Bool)
  /-- The reset input is asserted while a CMD write of `w` is in progress
  (spec/70_reset_and_hazards.md R133). -/
  | rstDuringCmd (w : Word)
  deriving DecidableEq, Repr

end Sys2Proof.Machine
end

