-- ==== Sys2Proof/Machine/State.lean ====
section
/-!
DEFINITION. The state of the block as plain data (spec/10_state.md R15, R35; spec/20_memory.md R40),
its reset value (spec/70_reset_and_hazards.md R129), and the reasons a step can stop.
-/
namespace Sys2Proof.Machine

/-- PBUF as the list of the bytes written since power-up, addresses strictly rising. An unlisted
address holds no value here; reading it gives the free draw of spec/20_memory.md R44 (log 4). -/
abbrev Memory := List Host.Cell

/-- The registers of spec/10_state.md R15 that hold state. CMD holds none (R26), and INFO is
computed from BUF_SIZE (R36). -/
structure Regs where
  /-- CTRL: POLICY bit 0, HORDER bit 1, STRICT bit 2 (R17 to R20). -/
  ctrl : Word
  /-- IDENT: the outbound identifier in bits 15:0 (R21). -/
  ident : Word
  /-- SEQ: the outbound sequence number in bits 15:0 (R22). -/
  seq : Word
  /-- TXTS_LO: send timestamp, bits 31:0 (R23). -/
  txtsLo : Word
  /-- TXTS_HI: send timestamp, bits 63:32 (R23). -/
  txtsHi : Word
  /-- OFF: PBUF offset of the operand in bits 15:0 (R24). -/
  off : Word
  /-- LEN: length of the operand in bits 15:0 (R25). -/
  len : Word
  /-- STATUS: ERR 3:0, HVALID 4, TSVALID 5, MATCH 6 (R27). -/
  status : Word
  /-- RESULT: the last checksum result in bits 15:0 (R32). -/
  result : Word
  /-- RXHDR0: TYPE 7:0, CODE 15:8, CKSUM 31:16 (R33). -/
  rxhdr0 : Word
  /-- RXHDR1: IDENT 15:0, SEQ 31:16 (R33). -/
  rxhdr1 : Word
  /-- RXTS_LO: extracted timestamp, bits 31:0 (R34). -/
  rxtsLo : Word
  /-- RXTS_HI: extracted timestamp, bits 63:32 (R34). -/
  rxtsHi : Word
  deriving DecidableEq, Repr

/-- The reset value of every register (spec/70_reset_and_hazards.md R129). -/
def Regs.reset : Regs where
  ctrl := 0x00000000#32
  ident := 0x00000000#32
  seq := 0x00000001#32
  txtsLo := 0x00000000#32
  txtsHi := 0x00000000#32
  off := 0x00000000#32
  len := 0x00000000#32
  status := 0x00000000#32
  result := 0x00000000#32
  rxhdr0 := 0x00000000#32
  rxhdr1 := 0x00000000#32
  rxtsLo := 0x00000000#32
  rxtsHi := 0x00000000#32

/-- The whole state of the block and of its port. -/
structure State where
  /-- BUF_SIZE and BASE (spec/00_scope.md R8, log 3). -/
  cfg : Params
  /-- The registers. -/
  regs : Regs
  /-- The packet buffer (spec/20_memory.md R40, R44). -/
  pbuf : Memory
  /-- The level of the reset input: true while it is asserted (spec/70_reset_and_hazards.md R128). -/
  rst : Bool
  /-- The read data the port returned for the access of the last step, none if that step was no
  read (spec/00_scope.md R5, log 2). -/
  rdata : Option Word
  /-- The model's own: the host's events that are still to be served, oldest first (log 1). -/
  inbox : List Event
  /-- The model's own: how many interrupted ENCODEs have drawn their bytes (log 7). -/
  draws : Nat
  deriving DecidableEq, Repr

/-- The block after power-up and reset, for the parameters `p`: every register as R129 says, no
PBUF byte written, the reset input released, no host event pending. -/
def State.powerUp (p : Params) : State where
  cfg := p
  regs := Regs.reset
  pbuf := []
  rst := false
  rdata := none
  inbox := []
  draws := 0

/-- The block right after reset, with the spec's default parameters. -/
def State.reset : State := State.powerUp Params.standard

/-- Reasons a step can stop with a fault. -/
inductive Fault where
  /-- Raised by `State.memRead` and `State.memWrite` for a range that does not lie in PBUF: such a
  byte does not exist (spec/20_memory.md R40). Every command checks BOUNDS first, so R41 says that
  it never happens. Safe: the model stops (log 8). -/
  | pbufRange (a n : Nat)
  deriving DecidableEq, Repr

/-- Reasons a step can be refused. -/
inductive Refusal where
  /-- Raised by an arm of `exec` whose command has no meaning yet. Safe. No arm does. -/
  | notModelled (mnemonic : String)
  /-- Raised by `target`: an access to a register offset that is not 32 bits wide
  (spec/20_memory.md R45, first item). Safe (log 9). -/
  | registerWidth (offset : Nat)
  /-- Raised by `target`: an access to a register offset that is no multiple of 4
  (spec/20_memory.md R45, first item). Safe (log 9). -/
  | registerMisaligned (offset : Nat)
  /-- Raised by `target`: a PBUF window access whose offset is no multiple of its width
  (spec/20_memory.md R45, second item). Safe (log 9). -/
  | windowMisaligned (offset : Nat)
  /-- Raised by `target`: an access at an offset at or above 0x2000 (spec/20_memory.md R45, third
  item). Safe (log 9). -/
  | offsetTooHigh (offset : Nat)
  /-- Raised by `serve`: a bus address below BASE, where the block is not (spec/20_memory.md R49).
  Safe (log 9). -/
  | belowBase (address : Nat)
  deriving DecidableEq, Repr

/-- What a step or a meaning answers. -/
abbrev Result := Host.Outcome State Fault Refusal

end Sys2Proof.Machine
end

