-- ==== Sys2Proof/Machine/Flags.lean ====
section
/-!
DEFINITION. STATUS, the only flags of the block (spec/10_state.md R27 to R31, R39;
spec/60_exceptions.md R114).
-/
namespace Sys2Proof.Machine

/-- The values STATUS.ERR takes (spec/60_exceptions.md R114). -/
inductive ErrCode where
  /-- 0, NONE. -/
  | none
  /-- 1, DecodeError: a datagram too short. -/
  | decodeError
  /-- 2, BOUNDS: the operand range does not fit in PBUF. -/
  | bounds
  /-- 3, BADCMD: an illegal command word. -/
  | badCmd
  deriving DecidableEq, Repr

/-- The code of an error, four bits (R114). -/
def ErrCode.code : ErrCode → BitVec 4
  | .none => 0#4
  | .decodeError => 1#4
  | .bounds => 2#4
  | .badCmd => 3#4

/-- `status(ERR = e, HVALID = h, TSVALID = t, MATCH = m)` of spec/00_scope.md R12, with the layout
of spec/10_state.md R27. -/
def statusWord (e : ErrCode) (h t m : Bool) : Word :=
  e.code.setWidth 32 ||| ((BitVec.ofBool h).setWidth 32 <<< 4)
    ||| ((BitVec.ofBool t).setWidth 32 <<< 5) ||| ((BitVec.ofBool m).setWidth 32 <<< 6)

/-- STATUS.ERR, bits 3:0. -/
def Regs.err (r : Regs) : BitVec 4 := r.status.extractLsb' 0 4

/-- STATUS.HVALID, bit 4. -/
def Regs.hvalid (r : Regs) : Bool := r.status.getLsbD 4

/-- STATUS.TSVALID, bit 5. -/
def Regs.tsvalid (r : Regs) : Bool := r.status.getLsbD 5

/-- STATUS.MATCH, bit 6. -/
def Regs.matched (r : Regs) : Bool := r.status.getLsbD 6

end Sys2Proof.Machine
end

