-- ==== Sys2Proof/Machine/Operands.lean ====
section
/-!
DEFINITION. The fields of the operand registers (spec/10_state.md R17 to R25, spec/30_encoding.md
R60) and the byte-order helpers every command uses (spec/00_scope.md R10, R11).
-/
namespace Sys2Proof.Machine

/-- Host byte order, the value H of CTRL.HORDER (spec/10_state.md R18). -/
inductive ByteOrder where
  /-- HORDER = 0. -/
  | little
  /-- HORDER = 1. -/
  | big
  deriving DecidableEq, Repr

/-- The checksum byte-order policy, CTRL.POLICY (spec/10_state.md R17). -/
inductive Policy where
  /-- POLICY = 0. -/
  | standard
  /-- POLICY = 1. -/
  | legacyDoubleSwap
  deriving DecidableEq, Repr

/-- CTRL.POLICY, bit 0. -/
def Regs.policy (r : Regs) : Policy := if r.ctrl.getLsbD 0 then .legacyDoubleSwap else .standard

/-- CTRL.HORDER, bit 1. -/
def Regs.horder (r : Regs) : ByteOrder := if r.ctrl.getLsbD 1 then .big else .little

/-- CTRL.STRICT, bit 2 (R19). -/
def Regs.strict (r : Regs) : Bool := r.ctrl.getLsbD 2

/-- IDENT[15:0]. -/
def Regs.ident16 (r : Regs) : Half := r.ident.extractLsb' 0 16

/-- SEQ[15:0]. -/
def Regs.seq16 (r : Regs) : Half := r.seq.extractLsb' 0 16

/-- OFF[15:0], an unsigned number (spec/30_encoding.md R60). -/
def Regs.offNat (r : Regs) : Nat := (r.off.extractLsb' 0 16).toNat

/-- LEN[15:0], an unsigned number. -/
def Regs.lenNat (r : Regs) : Nat := (r.len.extractLsb' 0 16).toNat

/-- TXTS, the 64-bit send timestamp (R23). -/
def Regs.txts (r : Regs) : DWord := (r.txtsHi.setWidth 64 <<< 32) ||| r.txtsLo.setWidth 64

/-- RXTS, the 64-bit extracted timestamp (R34). -/
def Regs.rxts (r : Regs) : DWord := (r.rxtsHi.setWidth 64 <<< 32) ||| r.rxtsLo.setWidth 64

/-- `s[i..j)` (spec/00_scope.md R10). -/
def slice (s : List Byte) (i j : Nat) : List Byte := (s.drop i).take (j - i)

/-- The low `n` bytes of a value, in ascending significance. -/
def splitBytes {w : Nat} : Nat → BitVec w → List Byte
  | 0, _ => []
  | n + 1, v => v.setWidth 8 :: splitBytes n (v >>> 8)

/-- The sum over k of `s[k] << 8k`: the value of bytes in ascending significance. -/
def joinBytes (w : Nat) : List Byte → BitVec w
  | [] => 0#w
  | b :: r => b.setWidth w + (joinBytes w r <<< 8)

/-- A byte sequence of ascending significance, laid out in byte order `h`. -/
def orderBytes (h : ByteOrder) (s : List Byte) : List Byte :=
  match h with
  | .little => s
  | .big => s.reverse

/-- `swap16` (R11). -/
def swap16 (v : Half) : Half := (v <<< 8) ||| (v >>> 8)

/-- `put16` (R11). -/
def put16 (h : ByteOrder) (v : Half) : List Byte := orderBytes h (splitBytes 2 v)

/-- `get16` (R11). -/
def get16 (h : ByteOrder) (s : List Byte) : Half := joinBytes 16 (orderBytes h s)

/-- `put64` (R11). -/
def put64 (h : ByteOrder) (v : DWord) : List Byte := orderBytes h (splitBytes 8 v)

/-- `get64` (R11). -/
def get64 (h : ByteOrder) (s : List Byte) : DWord := joinBytes 64 (orderBytes h s)

/-- `hton16`, the host-to-network conversion (R11). -/
def hton16 (h : ByteOrder) (v : Half) : Half :=
  match h with
  | .little => swap16 v
  | .big => v

end Sys2Proof.Machine
end

