-- ==== Sys2Proof/Machine/Ops.lean ====
section
/-!
DEFINITION. The operations over PBUF and the registers that the meanings share: reading and writing
PBUF, writing a result, raising an error, and what the reset input does.
-/
namespace Sys2Proof.Machine

/-- The byte listed at an address, if one is. -/
def Memory.get : Memory → Nat → Option Byte
  | [], _ => none
  | (a, b) :: r, x => if x = a then some b else Memory.get r x

/-- Lists a byte at an address, in its place, instead of the one listed there before. -/
def Memory.put : Memory → Nat → Byte → Memory
  | [], x, v => [(x, v)]
  | (a, b) :: r, x, v =>
    if x < a then (x, v) :: (a, b) :: r
    else if x = a then (a, v) :: r
    else (a, b) :: Memory.put r x v

/-- Lists bytes at ascending addresses from `a`. -/
def Memory.putAll (m : Memory) (a : Nat) : List Byte → Memory
  | [] => m
  | b :: r => Memory.putAll (Memory.put m a b) (a + 1) r

/-- Every address is at least `lo` and below `hi`, and the addresses strictly rise. -/
def Memory.within (lo hi : Nat) : Memory → Bool
  | [] => true
  | (a, _) :: r => decide (lo ≤ a) && decide (a < hi) && Memory.within (a + 1) hi r

/-- The canonical form of a PBUF of `n` bytes. An unlisted address holds no value at this layer, so
no entry can equal what an unlisted address holds. -/
def Memory.wf (n : Nat) (m : Memory) : Bool := Memory.within 0 n m

/-- PBUF[a]: the byte written there, or the free draw of spec/20_memory.md R44 (log 4). -/
def State.pbufByte (s : State) (a : Nat) : Byte := (Memory.get s.pbuf a).getD (Config.powerUpByte a)

/-- The bytes PBUF[a], ..., PBUF[a+n-1]. -/
def State.pbufBytes (s : State) (a n : Nat) : List Byte := (List.range n).map fun i => s.pbufByte (a + i)

/-- Replaces PBUF. -/
def State.setPbuf (s : State) (m : Memory) : State := { s with pbuf := m }

/-- Writes STATUS. -/
def State.setStatus (s : State) (v : Word) : State := { s with regs := { s.regs with status := v } }

/-- Writes RESULT with a 16-bit value, zero-extended (spec/10_state.md R32). -/
def State.setResult (s : State) (v : Half) : State :=
  { s with regs := { s.regs with result := v.setWidth 32 } }

/-- Writes RXHDR0 and RXHDR1. -/
def State.setRxHdr (s : State) (h0 h1 : Word) : State :=
  { s with regs := { s.regs with rxhdr0 := h0, rxhdr1 := h1 } }

/-- Writes RXTS_LO and RXTS_HI (spec/10_state.md R34). -/
def State.setRxTs (s : State) (ts : DWord) : State :=
  { s with regs := { s.regs with rxtsLo := ts.extractLsb' 0 32, rxtsHi := ts.extractLsb' 32 32 } }

/-- The read data the port returns. -/
def State.setRdata (s : State) (v : Word) : State := { s with rdata := some v }

/-- The event at the head of the inbox is taken: the rest is still to be served, and no read data
stands on the port. -/
def State.accept (s : State) (rest : List Event) : State := { s with inbox := rest, rdata := none }

/-- `MemRead(a, n)` (spec/00_scope.md R12): none outside PBUF. -/
def State.memRead (s : State) (a n : Nat) : Option (List Byte) :=
  if a + n ≤ s.cfg.bufSize then some (s.pbufBytes a n) else none

/-- `MemWrite(a, len(d), d)` (spec/00_scope.md R12): none outside PBUF. -/
def State.memWrite (s : State) (a : Nat) (d : List Byte) : Option State :=
  if a + d.length ≤ s.cfg.bufSize then some (s.setPbuf (Memory.putAll s.pbuf a d)) else none

/-- `raise E` (spec/60_exceptions.md R115): STATUS takes the code, with the other fields zero, and
nothing else changes. The block has no trap entry beyond this (R121) and no return (R122). -/
def State.raise (s : State) (e : ErrCode) : State := s.setStatus (statusWord e false false false)

/-- The BOUNDS check of spec/60_exceptions.md R117, before anything else a command does: on
unbounded numbers, without a 16-bit wrap. -/
def withRange (s : State) (a n : Nat) (k : Result) : Result :=
  if s.cfg.bufSize < a + n then .next (s.raise .bounds) else k

/-- `MemRead(a, n)` inside a meaning. -/
def withBytes (s : State) (a n : Nat) (k : List Byte → Result) : Result :=
  match s.memRead a n with
  | some d => k d
  | none => .fault (.pbufRange a n)

/-- `MemWrite(a, len(d), d)` inside a meaning. -/
def withWritten (s : State) (a : Nat) (d : List Byte) (k : State → Result) : Result :=
  match s.memWrite a d with
  | some t => k t
  | none => .fault (.pbufRange a d.length)

/-- The reset input is asserted: every register takes its reset value, PBUF keeps its bytes
(spec/70_reset_and_hazards.md R128, R129; log 5). -/
def State.assertReset (s : State) : State := { s with regs := Regs.reset, rst := true }

/-- The reset input is released: every register holds its reset value then too (R128). Releasing an
input that was not asserted changes nothing. -/
def State.releaseReset (s : State) : State :=
  if s.rst then { s with regs := Regs.reset, rst := false } else s

/-- The PBUF bytes after a reset fell into the write of `d` at `a`: each byte holds its old or its
new value, as the draw `keep` of its index says (R133). -/
def Memory.putDrawn (m : Memory) (a : Nat) (keep : Nat → Bool) : Nat → List Byte → Memory
  | _, [] => m
  | k, b :: r =>
    Memory.putDrawn (if keep k then Memory.put m (a + k) b else m) a keep (k + 1) r

end Sys2Proof.Machine
end

