-- ==== Sys2Proof/Machine/Checksum.lean ====
section
/-!
DEFINITION. The checksum function and the CSUM command (spec/41_checksum.md R80 to R86).
-/
namespace Sys2Proof.Machine

/-- The accumulator of R80: full pairs as low byte + high byte * 256, an odd final byte unscaled,
each addition modulo 2^32 (R82). -/
def sumPairs : Word → List Byte → Word
  | acc, [] => acc
  | acc, [x] => acc + x.setWidth 32
  | acc, x :: y :: r => sumPairs (acc + (x.setWidth 32 + (y.setWidth 32 <<< 8))) r

/-- One pass of the end-around carry of R81. -/
def foldPass (acc : Word) : Word := (acc >>> 16) + (acc &&& 0x0000FFFF#32)

/-- The loop of R81 with a bound on its passes. -/
def foldLoop : Nat → Word → Word
  | 0, acc => acc
  | k + 1, acc => if 0x0000FFFF#32 < acc then foldLoop k (foldPass acc) else acc

/-- `fold(acc)` (R81). For a 32-bit value the loop runs at most twice (log 11). -/
def fold (acc : Word) : Word := foldLoop 2 acc

/-- `checksum(s)` (R80): one's complement of the folded sum, byte-swapped. -/
def checksum (s : List Byte) : Half := swap16 (~~~ (fold (sumPairs 0#32 s)).extractLsb' 0 16)

/-- CSUM (R86). -/
def execCsum (s : State) : Result :=
  let a := s.regs.offNat
  let n := s.regs.lenNat
  withRange s a n <|
    withBytes s a n fun d =>
      .next ((s.setResult (checksum d)).setStatus (statusWord .none false false false))

end Sys2Proof.Machine
end

