-- ==== Sys2Proof/Machine/Control.lean ====
section
/-!
DEFINITION. NOP and the outcome of an illegal command word (spec/40_dispatch.md R77, R78).
-/
namespace Sys2Proof.Machine

/-- NOP (R77): no further effect; STATUS keeps its value. -/
def execNop (s : State) : Result := .next s

/-- BADCMD (R78), the outcome of an illegal command word. -/
def badCmd (s : State) : Result := .next (s.raise .badCmd)

end Sys2Proof.Machine
end

