-- ==== Sys2Proof/Machine/Encoder.lean ====
section
/-!
DEFINITION. The Echo Request encoder (spec/42_encoder.md R90 to R94; wire format spec/30_encoding.md
R62, R63).
-/
namespace Sys2Proof.Machine

/-- Bytes 4 to 15 of the packet: identifier, sequence, timestamp (R91). -/
def packetTail (h : ByteOrder) (id sq : Half) (ts : DWord) : List Byte :=
  put16 h id ++ put16 h sq ++ put64 h ts

/-- Steps (a) and (b): the header with checksum zero, and the payload (R91). -/
def zeroPacket (h : ByteOrder) (id sq : Half) (ts : DWord) : List Byte :=
  [0x08#8, 0x00#8, 0x00#8, 0x00#8] ++ packetTail h id sq ts

/-- Steps (c) and (d): the value of the checksum slot (R92). The policy's extra mask is all ones on
16 bits (R95). -/
def slotValue (h : ByteOrder) (p : Policy) (id sq : Half) (ts : DWord) : Half :=
  let v := hton16 h (checksum (zeroPacket h id sq ts))
  match p with
  | .standard => v
  | .legacyDoubleSwap => v &&& 0xFFFF#16

/-- Step (e): the packet with its checksum in place (R93). -/
def requestPacket (h : ByteOrder) (p : Policy) (id sq : Half) (ts : DWord) : List Byte :=
  [0x08#8, 0x00#8] ++ put16 h (slotValue h p id sq ts) ++ packetTail h id sq ts

/-- The slot value ENCODE computes from the registers. -/
def Regs.slot (r : Regs) : Half := slotValue r.horder r.policy r.ident16 r.seq16 r.txts

/-- The packet ENCODE builds from the registers. -/
def Regs.packet (r : Regs) : List Byte := requestPacket r.horder r.policy r.ident16 r.seq16 r.txts

/-- ENCODE (R90). It reads neither LEN nor PBUF. -/
def execEncode (s : State) : Result :=
  let a := s.regs.offNat
  withRange s a 16 <|
    withWritten s a s.regs.packet fun t =>
      .next ((t.setResult s.regs.slot).setStatus (statusWord .none false false false))

end Sys2Proof.Machine
end

