-- ==== Sys2Proof/Machine/Parser.lean ====
section
/-!
DEFINITION. The header parser and the reply matcher (spec/43_parser.md R99 to R111; datagram format
spec/30_encoding.md R65 to R67).
-/
namespace Sys2Proof.Machine

/-- The datagram of PARSE and MATCH: BOUNDS, then DecodeError for fewer than 28 bytes, then
`D = PBUF[OFF..OFF+LEN)` (R99, R100; the order of spec/60_exceptions.md R118). -/
def withDatagram (s : State) (k : List Byte → Result) : Result :=
  let a := s.regs.offNat
  let n := s.regs.lenNat
  withRange s a n <|
    if n < 28 then .next (s.raise .decodeError) else withBytes s a n k

/-- RXHDR0 of a datagram: type, code, checksum (R101). -/
def header0 (h : ByteOrder) (d : List Byte) : Word :=
  ((get16 h (slice d 22 24)).setWidth 32 <<< 16) ||| ((d.getD 21 0#8).setWidth 32 <<< 8)
    ||| (d.getD 20 0#8).setWidth 32

/-- RXHDR1 of a datagram: identifier, sequence (R101). -/
def header1 (h : ByteOrder) (d : List Byte) : Word :=
  ((get16 h (slice d 26 28)).setWidth 32 <<< 16) ||| (get16 h (slice d 24 26)).setWidth 32

/-- `load_header(D, H)` (R101). -/
def loadHeader (s : State) (h : ByteOrder) (d : List Byte) : State :=
  s.setRxHdr (header0 h d) (header1 h d)

/-- Whether the datagram holds the timestamp, `n >= 36` (R102). -/
def hasTimestamp (d : List Byte) : Bool := decide (36 ≤ d.length)

/-- RXTS takes bytes 28 to 35 when they are there, and keeps its value otherwise (R102). -/
def loadTimestamp (s : State) (h : ByteOrder) (d : List Byte) : State :=
  if hasTimestamp d then s.setRxTs (get64 h (slice d 28 36)) else s

/-- The RX registers after a datagram of 28 bytes or more, the part PARSE and MATCH share. -/
def loadRx (s : State) (d : List Byte) : State :=
  loadTimestamp (loadHeader s s.regs.horder d) s.regs.horder d

/-- The three further conditions of strict verification (R109). -/
def strictOk (d : List Byte) : Bool :=
  d.getD 20 0#8 == 0x00#8 && d.getD 21 0#8 == 0x00#8 && checksum (d.drop 20) == 0x0000#16

/-- `is_match(D, n, H)` (R110). -/
def isMatch (r : Regs) (d : List Byte) : Bool :=
  get16 r.horder (slice d 24 26) == r.ident16 && (!r.strict || strictOk d)

/-- The STATUS value of a MATCH that read its datagram: a match needs the timestamp (R106, R108). -/
def matchStatus (isM hasTs : Bool) : Word :=
  if isM then
    if hasTs then statusWord .none true true true else statusWord .decodeError true false false
  else statusWord .none true hasTs false

/-- PARSE (R99). No content of the datagram can make it fail (R103). -/
def execParse (s : State) : Result :=
  withDatagram s fun d =>
    .next ((loadRx s d).setStatus (statusWord .none true (hasTimestamp d) false))

/-- MATCH (R106). -/
def execMatch (s : State) : Result :=
  withDatagram s fun d =>
    .next ((loadRx s d).setStatus (matchStatus (isMatch s.regs d) (hasTimestamp d)))

end Sys2Proof.Machine
end

