-- ==== Sys2Proof/Machine/Dispatch.lean ====
section
/-! DEFINITION. One arm per command (spec/40_dispatch.md R75). -/
namespace Sys2Proof.Machine

def exec (i : Instr) (s : State) : Host.Outcome State Fault Refusal :=
  match i with
  | .nop => Sys2Proof.Machine.execNop s
  | .csum => Sys2Proof.Machine.execCsum s
  | .encode => Sys2Proof.Machine.execEncode s
  | .parse => Sys2Proof.Machine.execParse s
  | .matchReply => Sys2Proof.Machine.execMatch s

end Sys2Proof.Machine
end

