-- ==== Sys2Proof/Machine/Bus.lean ====
section
/-!
DEFINITION. The slave port (spec/20_memory.md R42 to R45, R48, R49; spec/10_state.md R15, R20 to
R26, R36 to R38) and the reset input (spec/70_reset_and_hazards.md R128, R133): what one host event
does to the state.
-/
namespace Sys2Proof.Machine

/-- The register map of spec/10_state.md R15. -/
def regMap : List (Nat × RegName) :=
  [(0x000, .ctrl), (0x004, .ident), (0x008, .seq), (0x00C, .txtsLo), (0x010, .txtsHi),
   (0x014, .off), (0x018, .len), (0x01C, .cmd), (0x020, .status), (0x024, .result),
   (0x028, .rxhdr0), (0x02C, .rxhdr1), (0x030, .rxtsLo), (0x034, .rxtsHi), (0x038, .info)]

/-- What a register offset addresses: a register of the map, or nothing (R37). -/
def regTarget (offset : Nat) : Target :=
  match regMap.lookup offset with
  | some r => .reg r
  | none => .unmapped

/-- What an access addresses, or why it is refused (spec/20_memory.md R45, R49). -/
def target (t : Transaction) : Except Refusal Target :=
  if t.offset < 0x1000 then
    if t.width ≠ .w32 then .error (.registerWidth t.offset)
    else if t.offset % 4 ≠ 0 then .error (.registerMisaligned t.offset)
    else .ok (regTarget t.offset)
  else if t.offset < 0x2000 then
    if t.offset % t.width.bytes ≠ 0 then .error (.windowMisaligned t.offset)
    else .ok (.window (t.offset - 0x1000))
  else .error (.offsetTooHigh t.offset)

/-- INFO: BUF_SIZE in bits 15:0, bits 31:16 zero (spec/10_state.md R36). -/
def Params.info (p : Params) : Word := (BitVec.ofNat 16 p.bufSize).setWidth 32

/-- What a host read of a register returns. CMD reads as zero (spec/10_state.md R26). -/
def State.readReg (s : State) : RegName → Word
  | .ctrl => s.regs.ctrl
  | .ident => s.regs.ident
  | .seq => s.regs.seq
  | .txtsLo => s.regs.txtsLo
  | .txtsHi => s.regs.txtsHi
  | .off => s.regs.off
  | .len => s.regs.len
  | .cmd => 0x00000000#32
  | .status => s.regs.status
  | .result => s.regs.result
  | .rxhdr0 => s.regs.rxhdr0
  | .rxhdr1 => s.regs.rxhdr1
  | .rxtsLo => s.regs.rxtsLo
  | .rxtsHi => s.regs.rxtsHi
  | .info => Params.info s.cfg

/-- The registers after a host write of `v` to a register other than CMD: reserved bits are not
written (spec/10_state.md R20 to R25), read-only registers ignore the write (R38). -/
def Regs.hostWrite (r : Regs) (v : Word) : RegName → Regs
  | .ctrl => { r with ctrl := v &&& 0x00000007#32 }
  | .ident => { r with ident := v &&& 0x0000FFFF#32 }
  | .seq => { r with seq := v &&& 0x0000FFFF#32 }
  | .txtsLo => { r with txtsLo := v }
  | .txtsHi => { r with txtsHi := v }
  | .off => { r with off := v &&& 0x0000FFFF#32 }
  | .len => { r with len := v &&& 0x0000FFFF#32 }
  | .cmd => r
  | .status => r
  | .result => r
  | .rxhdr0 => r
  | .rxhdr1 => r
  | .rxtsLo => r
  | .rxtsHi => r
  | .info => r

/-- The byte the window shows at index `a`: zero at or beyond BUF_SIZE (spec/20_memory.md R43). -/
def State.windowByte (s : State) (a : Nat) : Byte :=
  if a < s.cfg.bufSize then s.pbufByte a else 0x00#8

/-- A window read of `n` bytes at index `a`, little-endian lanes (spec/20_memory.md R42). -/
def State.windowRead (s : State) (a n : Nat) : Word :=
  joinBytes 32 ((List.range n).map fun k => s.windowByte (a + k))

/-- PBUF after bytes are written from index `a`; those at or beyond `size` are ignored
(spec/20_memory.md R43). -/
def Memory.putBelow (size : Nat) (m : Memory) (a : Nat) : List Byte → Memory
  | [] => m
  | b :: r => Memory.putBelow size (if a < size then Memory.put m a b else m) (a + 1) r

/-- A window write of the low `n` bytes of `v` at index `a` (spec/20_memory.md R42). -/
def State.windowWrite (s : State) (a n : Nat) (v : Word) : State :=
  s.setPbuf (Memory.putBelow s.cfg.bufSize s.pbuf a (splitBytes n v))

/-- A host write of `w` to CMD runs exactly one command (spec/40_dispatch.md R75). -/
def runCmd (w : Word) (s : State) : Result :=
  match decode w with
  | .cmd i => exec i s
  | .illegal _ => badCmd s

/-- A host write to a register. While the reset input is asserted every register holds its reset
value and a CMD write is ignored (spec/70_reset_and_hazards.md R128, log 6). -/
def State.regWrite (s : State) (r : RegName) (v : Word) : Result :=
  if s.rst then .next s
  else if r = .cmd then runCmd v s
  else .next { s with regs := Regs.hostWrite s.regs v r }

/-- One host access (spec/20_memory.md R48: no read has a side effect). -/
def serveAccess (t : Transaction) (s : State) : Result :=
  match target t, t.dir with
  | .error r, _ => .refused r
  | .ok (.reg r), .read => .next (s.setRdata (s.readReg r))
  | .ok (.reg r), .write => s.regWrite r t.data
  | .ok .unmapped, .read => .next (s.setRdata 0x00000000#32)
  | .ok .unmapped, .write => .next s
  | .ok (.window a), .read => .next (s.setRdata (s.windowRead a t.width.bytes))
  | .ok (.window a), .write => .next (s.windowWrite a t.width.bytes t.data)

/-- The PBUF range a command would write, and the bytes it would write there: ENCODE's packet when
it is in range, nothing for every other command (spec/70_reset_and_hazards.md R133). -/
def pendingWrite (w : Word) (s : State) : Option (Nat × List Byte) :=
  match decode w with
  | .cmd .encode =>
    if s.regs.offNat + 16 ≤ s.cfg.bufSize then some (s.regs.offNat, s.regs.packet) else none
  | _ => none

/-- A reset asserted while a CMD write of `w` is in progress (spec/70_reset_and_hazards.md R133,
log 7). A CMD write while the input is already asserted is ignored (R128). -/
def State.resetDuringCmd (s : State) (w : Word) : State :=
  if s.rst then s.assertReset
  else
    match pendingWrite w s with
    | none => s.assertReset
    | some (a, d) =>
      { s.assertReset with
        pbuf := Memory.putDrawn s.pbuf a (Config.resetDraw s.draws) 0 d
        draws := s.draws + 1 }

/-- What one event does. -/
def serve (e : Event) (s : State) : Result :=
  match e with
  | .access t => serveAccess t s
  | .busAccess dir width address data =>
    if address < s.cfg.base then .refused (.belowBase address)
    else serveAccess ⟨dir, width, address - s.cfg.base, data⟩ s
  | .rst true => .next s.assertReset
  | .rst false => .next s.releaseReset
  | .rstDuringCmd w => .next (s.resetDuringCmd w)

/-- Serves the oldest pending event. With none pending the block is idle: it never starts work on
its own and never stops by itself (spec/00_scope.md R4, spec/60_exceptions.md R127,
spec/70_reset_and_hazards.md R138; log 1). -/
def serveNext (s : State) : Result :=
  match s.inbox with
  | [] => .next s
  | e :: rest => serve e (s.accept rest)

end Sys2Proof.Machine
end

