-- ==== Sys2Proof/Machine/HostProgram.lean ====
section
/-!
DEFINITION. The notation of host programs as functions that give transactions, and the tuples that
encode them (spec/30_encoding.md R68 to R70). Branches of a host program are the host's own computation (R71) and stand nowhere here.
-/
namespace Sys2Proof.Machine

/-- The offset of a register (spec/10_state.md R15). -/
def RegName.offset : RegName → Nat
  | .ctrl => 0x000
  | .ident => 0x004
  | .seq => 0x008
  | .txtsLo => 0x00C
  | .txtsHi => 0x010
  | .off => 0x014
  | .len => 0x018
  | .cmd => 0x01C
  | .status => 0x020
  | .result => 0x024
  | .rxhdr0 => 0x028
  | .rxhdr1 => 0x02C
  | .rxtsLo => 0x030
  | .rxtsHi => 0x034
  | .info => 0x038

/-- `PBUF+a` (R68). -/
def pbufOffset (a : Nat) : Nat := 0x1000 + a

/-- `wr32 off, v`. -/
def wr32 (offset : Nat) (v : Word) : Transaction := ⟨.write, .w32, offset, v⟩

/-- `rd32 off`. -/
def rd32 (offset : Nat) : Transaction := ⟨.read, .w32, offset, 0#32⟩

/-- `wr16 off, v`. -/
def wr16 (offset : Nat) (v : Half) : Transaction := ⟨.write, .w16, offset, v.setWidth 32⟩

/-- `rd16 off`. -/
def rd16 (offset : Nat) : Transaction := ⟨.read, .w16, offset, 0#32⟩

/-- `wr8 off, v`. -/
def wr8 (offset : Nat) (v : Byte) : Transaction := ⟨.write, .w8, offset, v.setWidth 32⟩

/-- `rd8 off`. -/
def rd8 (offset : Nat) : Transaction := ⟨.read, .w8, offset, 0#32⟩

/-- `cmd NOP`, `cmd CSUM`, `cmd ENCODE`, `cmd PARSE`, `cmd MATCH` (R70). -/
def cmdWrite (i : Instr) : Transaction := wr32 RegName.cmd.offset (encode i)

/-- `wr64 TXTS, v` (R70). -/
def wr64Txts (v : DWord) : List Transaction :=
  [wr32 RegName.txtsLo.offset (v.extractLsb' 0 32), wr32 RegName.txtsHi.offset (v.extractLsb' 32 32)]

/-- The two reads of `rd64 RXTS` (R70). -/
def rd64Rxts : List Transaction := [rd32 RegName.rxtsLo.offset, rd32 RegName.rxtsHi.offset]

/-- The value `rd64 RXTS -> v` makes of its two reads (R70). -/
def rd64Value (lo hi : Word) : DWord := (hi.setWidth 64 <<< 32) ||| lo.setWidth 64

/-- `fill PBUF+a, bytes`, in ascending order (R70). -/
def fillPbuf (a : Nat) : List Byte → List Transaction
  | [] => []
  | b :: r => wr8 (pbufOffset a) b :: fillPbuf (a + 1) r

/-- The transaction at a bus address, for a block that starts at `base` (spec/20_memory.md R49). -/
def Transaction.atBase (base : Nat) (t : Transaction) : Event :=
  .busAccess t.dir t.width (base + t.offset) t.data

/-- The tuple `(dir, width, offset, data)` of spec/30_encoding.md R69 for a transaction that was served
and left the state `u`: its data is the write data, or the read result that the port returned. -/
def Transaction.completed (t : Transaction) (u : State) : Transaction :=
  match t.dir with
  | .write => t
  | .read => { t with data := u.rdata.getD 0#32 }

/-- The encoding of a host program run from `s`: the list of its transactions' tuples, in the program's
order (R69). There is none for a program with a refused access: the model's choice (log 13). -/
def programEncoding : List Transaction → State → Option (List Transaction)
  | [], _ => some []
  | t :: rest, s =>
    match serveNext { s with inbox := (t :: rest).map Event.access } with
    | .next u => (programEncoding rest u).map fun tuples => t.completed u :: tuples
    | .fault _ => none
    | .refused _ => none

/-- The state with a host program still to be run, after what is pending already (R68). -/
def State.withProgram (s : State) (p : List Transaction) : State :=
  { s with inbox := s.inbox ++ p.map Event.access }

end Sys2Proof.Machine
end

