-- ==== Sys2Proof/Machine/Step.lean ====
section
/-!
DEFINITION. One step of the block, and how a command word comes to be the next one it runs.
-/
namespace Sys2Proof.Machine

/-- One step: the oldest host event is served, and with none pending the block is idle. -/
def step (s : State) : Host.Outcome State Fault Refusal := serveNext s

/-- The state in which the very next event is the host's write of this command word to CMD, the
reset input released so that the write is not ignored (log 1). -/
def State.withFetchWord (s : State) (nbits w : Nat) : State :=
  { s with rst := false
           inbox := .access (wr32 RegName.cmd.offset (tableWord nbits w)) :: s.inbox }

end Sys2Proof.Machine
end

