-- ==== Sys2Proof/WellFormed.lean ====
section
/-!
DEFINITION. The checks on what is written down before it runs: a command, a host access, the
parameters.
-/
namespace Sys2Proof

/-- A command holds no register number and no immediate (spec/30_encoding.md R60), so every one is
well-formed. -/
def Instr.wf : Instr → Bool
  | .nop => true
  | .csum => true
  | .encode => true
  | .parse => true
  | .matchReply => true

/-- The range of BUF_SIZE (spec/00_scope.md R8). BASE is the platform's and has no bound there. -/
def Params.wf (p : Params) : Bool := decide (36 ≤ p.bufSize) && decide (p.bufSize ≤ 4096)

/-- The accesses the interface gives a meaning: all but the three kinds of spec/20_memory.md R45. -/
def Machine.Transaction.wf (t : Machine.Transaction) : Bool :=
  if t.offset < 0x1000 then decide (t.width = .w32) && decide (t.offset % 4 = 0)
  else decide (t.offset < 0x2000) && decide (t.offset % t.width.bytes = 0)

end Sys2Proof
end

