-- ==== Sys2Proof/Safety.lean ====
section
/-!
DEFINITION. What counts as a legal state and a completed step, in the terms the claims use.
-/
namespace Sys2Proof.Machine

/-- The next state, if there is one. -/
def nextState : Result → Option State
  | .next s => some s
  | .fault _ => none
  | .refused _ => none

/-- The values STATUS takes: reset and every outcome the command rules list (spec/43_parser.md R106,
spec/60_exceptions.md R114, R115). -/
def statusValues : List Word :=
  [0x00000000#32, 0x00000001#32, 0x00000002#32, 0x00000003#32, 0x00000010#32, 0x00000011#32,
   0x00000030#32, 0x00000070#32]

/-- Reserved bits hold zero (spec/10_state.md R20 to R25, R32), and STATUS is a value some command
or reset leaves. -/
def Regs.wf (r : Regs) : Bool :=
  r.ctrl.extractLsb' 3 29 == 0#29 && r.ident.extractLsb' 16 16 == 0#16
    && r.seq.extractLsb' 16 16 == 0#16 && r.off.extractLsb' 16 16 == 0#16
    && r.len.extractLsb' 16 16 == 0#16 && r.result.extractLsb' 16 16 == 0#16
    && statusValues.contains r.status

/-- The invariant of the block: legal parameters, PBUF in canonical form, reserved bits zero, STATUS
legal, and every register at its reset value while the reset input is asserted
(spec/70_reset_and_hazards.md R128). -/
def State.wf (s : State) : Bool :=
  s.cfg.wf && Memory.wf s.cfg.bufSize s.pbuf && s.regs.wf && (!s.rst || s.regs == Regs.reset)

end Sys2Proof.Machine
end

