-- ==== Sys2Proof/Certificates/Slice0/Obligations.lean ====
section
/-!
DEFINITION. The statements for the provers. The first part writes the spec's own formulas down once
more, with BitVec append and plain numbers instead of the model's helpers, so that a statement says
what the rule says and not what the model does.
-/
namespace Sys2Proof.Claims

open Sys2Proof.Machine

/-! ### The spec's formulas over a state -/

/-- OFF[15:0] as a number (spec/30_encoding.md R60). -/
def offOf (s : State) : Nat := s.regs.off.toNat % 65536

/-- LEN[15:0] as a number. -/
def lenOf (s : State) : Nat := s.regs.len.toNat % 65536

/-- IDENT[15:0]. -/
def identOf (s : State) : Half := s.regs.ident.extractLsb' 0 16

/-- SEQ[15:0]. -/
def seqOf (s : State) : Half := s.regs.seq.extractLsb' 0 16

/-- TXTS = (TXTS_HI << 32) | TXTS_LO (spec/10_state.md R23). -/
def txtsOf (s : State) : DWord := s.regs.txtsHi ++ s.regs.txtsLo

/-- CTRL.HORDER = 1 (spec/10_state.md R18). -/
def bigOf (s : State) : Bool := s.regs.ctrl.getLsbD 1

/-- CTRL.STRICT = 1 (spec/10_state.md R19). -/
def strictOf (s : State) : Bool := s.regs.ctrl.getLsbD 2

/-- PBUF[OFF + i], byte `i` of the operand. -/
def byteAt (s : State) (i : Nat) : Byte := s.pbufByte (offOf s + i)

/-- PBUF[OFF..OFF+LEN), the operand of CSUM, the datagram of PARSE and MATCH. -/
def operand (s : State) : List Byte := (List.range (lenOf s)).map (byteAt s)

/-- `a + n ≤ BUF_SIZE` on unbounded numbers (spec/60_exceptions.md R117). -/
abbrev InRange (s : State) (n : Nat) : Prop := offOf s + n ≤ s.cfg.bufSize

/-- put16 of spec/00_scope.md R11. -/
def put2 (big : Bool) (v : Half) : List Byte :=
  if big then [v.extractLsb' 8 8, v.extractLsb' 0 8] else [v.extractLsb' 0 8, v.extractLsb' 8 8]

/-- put64 of spec/00_scope.md R11. -/
def put8 (big : Bool) (v : DWord) : List Byte :=
  if big then
    [v.extractLsb' 56 8, v.extractLsb' 48 8, v.extractLsb' 40 8, v.extractLsb' 32 8,
     v.extractLsb' 24 8, v.extractLsb' 16 8, v.extractLsb' 8 8, v.extractLsb' 0 8]
  else
    [v.extractLsb' 0 8, v.extractLsb' 8 8, v.extractLsb' 16 8, v.extractLsb' 24 8,
     v.extractLsb' 32 8, v.extractLsb' 40 8, v.extractLsb' 48 8, v.extractLsb' 56 8]

/-- get16 of spec/00_scope.md R11, of two bytes. -/
def get2 (big : Bool) (b0 b1 : Byte) : Half := if big then b0 ++ b1 else b1 ++ b0

/-- get64 of spec/00_scope.md R11, of eight bytes. -/
def get8 (big : Bool) (b : Nat → Byte) : DWord :=
  if big then b 0 ++ b 1 ++ b 2 ++ b 3 ++ b 4 ++ b 5 ++ b 6 ++ b 7
  else b 7 ++ b 6 ++ b 5 ++ b 4 ++ b 3 ++ b 2 ++ b 1 ++ b 0

/-- swap16 of spec/00_scope.md R11. -/
def swapBytes (v : Half) : Half := v.extractLsb' 0 8 ++ v.extractLsb' 8 8

/-- Bytes 4 to 15 of the Echo Request (spec/30_encoding.md R62). -/
def requestTail (s : State) : List Byte :=
  put2 (bigOf s) (identOf s) ++ put2 (bigOf s) (seqOf s) ++ put8 (bigOf s) (txtsOf s)

/-- h of spec/42_encoder.md R90: hton16 of the checksum of the packet with a zero checksum, and the
policy's mask. -/
def requestSlot (s : State) : Half :=
  let r := checksum ([0x08#8, 0x00#8, 0x00#8, 0x00#8] ++ requestTail s)
  let h := if bigOf s then r else swapBytes r
  if s.regs.ctrl.getLsbD 0 then h &&& 0xFFFF#16 else h

/-- pkt of spec/42_encoder.md R90. -/
def requestBytes (s : State) : List Byte :=
  [0x08#8, 0x00#8] ++ put2 (bigOf s) (requestSlot s) ++ requestTail s

/-- The identifier of the datagram (spec/43_parser.md R101). -/
def replyIdent (s : State) : Half := get2 (bigOf s) (byteAt s 24) (byteAt s 25)

/-- The embedded timestamp of the datagram (spec/43_parser.md R102). -/
def replyTs (s : State) : DWord := get8 (bigOf s) fun k => byteAt s (28 + k)

/-- The registers after load_header (spec/43_parser.md R101, layout spec/10_state.md R33). -/
def headerRegs (s : State) : Regs :=
  { s.regs with
    rxhdr0 := get2 (bigOf s) (byteAt s 22) (byteAt s 23) ++ byteAt s 21 ++ byteAt s 20
    rxhdr1 := get2 (bigOf s) (byteAt s 26) (byteAt s 27) ++ replyIdent s }

/-- The registers after load_header and the extraction of the timestamp (spec/43_parser.md R102). -/
def headerTsRegs (s : State) : Regs :=
  { headerRegs s with
    rxtsLo := (replyTs s).extractLsb' 0 32
    rxtsHi := (replyTs s).extractLsb' 32 32 }

/-- is_match of spec/43_parser.md R110. -/
abbrev Matches (s : State) : Prop :=
  replyIdent s = identOf s ∧
    (strictOf s = false ∨
      (byteAt s 20 = 0x00#8 ∧ byteAt s 21 = 0x00#8 ∧ checksum ((operand s).drop 20) = 0x0000#16))

/-- The state with other registers. -/
def withRegs (s : State) (r : Regs) : State := { s with regs := r }

/-- The state with another STATUS. -/
def withStatus (s : State) (v : Word) : State := withRegs s { s.regs with status := v }

/-- The state after an event was taken that did nothing else: the rest of the inbox is pending and
no read data stands on the port. -/
def taken (s : State) (rest : List Event) : State := { s with inbox := rest, rdata := none }

/-- The state after a read was taken that returned `v`. -/
def readBack (s : State) (rest : List Event) (v : Word) : State :=
  { s with inbox := rest, rdata := some v }

/-- Everything but the registers and the PBUF bytes is as before. -/
def SameRest (s t : State) : Prop :=
  t.cfg = s.cfg ∧ t.rst = s.rst ∧ t.rdata = s.rdata ∧ t.inbox = s.inbox ∧ t.draws = s.draws

/-- The match words of spec/30_encoding.md R58. -/
def matchWord : Instr → Word
  | .nop => 0x00000000#32
  | .csum => 0x00000001#32
  | .encode => 0x00000002#32
  | .parse => 0x00000003#32
  | .matchReply => 0x00000004#32

/-- A word is illegal (spec/30_encoding.md R59, spec/40_dispatch.md R78). -/
abbrev IllegalCmd (w : Word) : Prop := w.extractLsb' 4 28 ≠ 0#28 ∨ 5 ≤ (w.extractLsb' 0 4).toNat

/-- The accesses that spec/20_memory.md R45 refuses. -/
abbrev RefusedAccess (t : Transaction) : Prop :=
  (t.offset < 0x1000 ∧ (t.width ≠ .w32 ∨ t.offset % 4 ≠ 0))
    ∨ (0x1000 ≤ t.offset ∧ t.offset < 0x2000 ∧ t.offset % t.width.bytes ≠ 0)
    ∨ 0x2000 ≤ t.offset

/-- The length `n` that the BOUNDS check of a command uses (spec/60_exceptions.md R117). -/
def rangeLen (s : State) : Instr → Option Nat
  | .nop => none
  | .csum => some (lenOf s)
  | .encode => some 16
  | .parse => some (lenOf s)
  | .matchReply => some (lenOf s)

/-- The exact sum of the little-endian pairs (spec/41_checksum.md R80), without any width. -/
def pairSum : List Byte → Nat
  | [] => 0
  | [x] => x.toNat
  | x :: y :: r => (x.toNat + 256 * y.toNat) + pairSum r

/-- The exact sum of the most-significant-byte-first 16-bit words, an odd final byte padded by a
zero low byte (spec/41_checksum.md R88). -/
def networkSum : List Byte → Nat
  | [] => 0
  | [x] => 256 * x.toNat
  | x :: y :: r => (256 * x.toNat + y.toNat) + networkSum r

/-- The end-around-carry value of an exact sum: 0 for 0, else the one in 1..0xFFFF that is congruent
to it modulo 0xFFFF (spec/41_checksum.md R81). -/
def endAround (n : Nat) : Nat := if n = 0 then 0 else (n - 1) % 65535 + 1

/-- `s` with its bytes at `p` and `p+1` replaced. -/
def patch2 (s : List Byte) (p : Nat) (b0 b1 : Byte) : List Byte := (s.set p b0).set (p + 1) b1

/-- The access at the port that an event is, if it is one (spec/20_memory.md R49). -/
def portAccess (base : Nat) : Event → Option Transaction
  | .access t => some t
  | .busAccess d w address v => if base ≤ address then some ⟨d, w, address - base, v⟩ else none
  | .rst _ => none
  | .rstDuringCmd _ => none

/-- An event is a write to CMD or moves the reset input. -/
def StartsCommandOrReset (base : Nat) (e : Event) : Prop :=
  (∃ t, portAccess base e = some t ∧ t.dir = .write ∧ t.offset = 0x01C) ∨
    (∃ l, e = .rst l) ∨ ∃ w, e = .rstDuringCmd w

/-- An event may write PBUF byte `a`: a window write whose lanes cover it, or an ENCODE, complete or
interrupted by reset, whose 16 bytes cover it. -/
def MayWriteByte (s : State) (e : Event) (a : Nat) : Prop :=
  (∃ t, portAccess s.cfg.base e = some t ∧ t.dir = .write ∧ t.offset ≤ 0x1000 + a ∧
      0x1000 + a < t.offset + t.width.bytes) ∨
    (((∃ t, portAccess s.cfg.base e = some t ∧ t.dir = .write ∧ t.offset = 0x01C ∧
          t.data = 0x00000002#32) ∨ e = .rstDuringCmd 0x00000002#32) ∧
      s.rst = false ∧ offOf s ≤ a ∧ a < offOf s + 16)

end Sys2Proof.Claims

open Sys2Proof Sys2Proof.Machine Sys2Proof.Claims

/-! ### Reset, decoding, one step -/

/-- R129: what power-up and reset leave, for every choice of the parameters; R128 for PBUF, which a
reset event keeps. -/
def Obligations.PowerUpAndResetLeaveResetValues : Prop :=
  ∀ p : Params,
    (State.powerUp p).regs =
        { ctrl := 0x00000000#32, ident := 0x00000000#32, seq := 0x00000001#32,
          txtsLo := 0x00000000#32, txtsHi := 0x00000000#32, off := 0x00000000#32,
          len := 0x00000000#32, status := 0x00000000#32, result := 0x00000000#32,
          rxhdr0 := 0x00000000#32, rxhdr1 := 0x00000000#32, rxtsLo := 0x00000000#32,
          rxtsHi := 0x00000000#32 } ∧
      (State.powerUp p).readReg .cmd = 0x00000000#32 ∧
      (p.wf = true → ((State.powerUp p).readReg .info).toNat = p.bufSize) ∧
      (∀ a, (State.powerUp p).pbufByte a = Config.powerUpByte a) ∧
      (∀ s rest, s.inbox = .rst true :: rest → ∃ t, step s = .next t ∧
        t.regs = (State.powerUp p).regs ∧ t.cfg = s.cfg ∧ ∀ a, t.pbufByte a = s.pbufByte a) ∧
      ∃ p : Params, p.wf = true ∧ State.reset = State.powerUp p

/-- The invariant holds after power-up for every legal choice of the parameters, and so at reset. -/
def Obligations.LegalStateAtReset : Prop :=
  (∀ p : Params, p.wf = true → (State.powerUp p).wf = true) ∧ State.reset.wf = true

/-- The words of R58, R59 and the vectors V-DI1 to V-DI5, written out. -/
def Obligations.CommandWordsDecodeAsWritten : Prop :=
  decode 0b00000000000000000000000000000000#32 = .cmd .nop ∧
  decode 0b00000000000000000000000000000001#32 = .cmd .csum ∧
  decode 0b00000000000000000000000000000010#32 = .cmd .encode ∧
  decode 0b00000000000000000000000000000011#32 = .cmd .parse ∧
  decode 0b00000000000000000000000000000100#32 = .cmd .matchReply ∧
  decode 0x00000005#32 = .illegal .unusedOp ∧
  decode 0x0000000F#32 = .illegal .unusedOp ∧
  decode 0x00000011#32 = .illegal .reservedBits ∧
  decode 0x80000001#32 = .illegal .reservedBits

/-- R58: the command map, its encoder, and that every other word is illegal (R59); no bit of the word
is dropped. -/
def Obligations.DecodingAndEncodingAreTheCommandMap : Prop :=
  (∀ i : Instr, i.wf = true → encode i = matchWord i ∧ decode (encode i) = .cmd i) ∧
  (∀ w i, decode w = .cmd i ↔ w &&& 0xFFFFFFFF#32 = matchWord i) ∧
  (∀ w, (∃ why, decode w = .illegal why) ↔ IllegalCmd w) ∧
  (∀ w i, decodeTableWord 32 w.toNat = some i ↔ w = encode i)

/-- R75: a 32-bit write of `w` to CMD, with the reset input released, runs exactly the command `w`
decodes to; around it the step takes the event from the inbox and puts no read data on the port. -/
def Obligations.StepRunsTheDecodedCommand : Prop :=
  ∀ (s : State) (rest : List Event) (w : Word),
    s.inbox = .access ⟨.write, .w32, 0x01C, w⟩ :: rest → s.rst = false →
      (∀ i, decode w = .cmd i → step s = exec i (taken s rest)) ∧
      (w.extractLsb' 4 28 ≠ 0#28 → step s = .next (withStatus (taken s rest) 0x00000003#32)) ∧
      (w = 0x0#32 → step s = exec .nop (taken s rest)) ∧
      (w = 0x1#32 → step s = exec .csum (taken s rest)) ∧
      (w = 0x2#32 → step s = exec .encode (taken s rest)) ∧
      (w = 0x3#32 → step s = exec .parse (taken s rest)) ∧
      (w = 0x4#32 → step s = exec .matchReply (taken s rest)) ∧
      (5 ≤ (w.extractLsb' 0 4).toNat →
        step s = .next (withStatus (taken s rest) 0x00000003#32))

/-- R78: an illegal command word sets STATUS to 3 and changes nothing else. -/
def Obligations.IllegalWordOnlySetsBadcmd : Prop :=
  ∀ (s : State) (rest : List Event) (w : Word),
    s.inbox = .access ⟨.write, .w32, 0x01C, w⟩ :: rest → s.rst = false → IllegalCmd w →
      step s = .next (withStatus (taken s rest) 0x00000003#32)

/-- R4, R127: with no host event pending the block does nothing (log 1: the model's idle step). -/
def Obligations.IdleBlockKeepsItsState : Prop :=
  ∀ s : State, s.inbox = [] → step s = .next s

/-- The word placed by `withFetchWord` is the command the next step runs (log 1). -/
def Obligations.PlacedWordRunsNext : Prop :=
  ∀ (s : State) (nbits w : Nat) (i : Instr), decodeTableWord nbits w = some i →
    step (s.withFetchWord nbits w) = exec i { s with rst := false, rdata := none }

/-! ### The commands -/

/-- R77: NOP completes and changes nothing, STATUS included. -/
def Obligations.NopChangesNothing : Prop :=
  ∀ s : State, exec .nop s = .next s

/-- R86: CSUM writes the checksum of its range to RESULT and 0 to STATUS, and nothing else; out of
range it writes 2 to STATUS and nothing else. -/
def Obligations.CsumWritesTheChecksumOfItsRange : Prop :=
  ∀ s : State,
    (InRange s (lenOf s) →
      exec .csum s =
        .next (withRegs s { s.regs with
          result := (checksum (operand s)).setWidth 32
          status := 0x00000000#32 })) ∧
    (s.cfg.bufSize < offOf s + lenOf s → exec .csum s = .next (withStatus s 0x00000002#32))

/-- R90: ENCODE writes exactly the 16 bytes of the request at OFF, the slot value to RESULT and 0 to
STATUS; out of range it writes 2 to STATUS and nothing else. -/
def Obligations.EncodeWritesTheRequest : Prop :=
  ∀ s : State,
    (InRange s 16 →
      ∃ t, exec .encode s = .next t ∧
        t.regs = { s.regs with
          result := (requestSlot s).setWidth 32
          status := 0x00000000#32 } ∧
        (∀ i, i < 16 → t.pbufByte (offOf s + i) = (requestBytes s).getD i 0#8) ∧
        (∀ a, a < offOf s ∨ offOf s + 16 ≤ a → t.pbufByte a = s.pbufByte a) ∧
        SameRest s t) ∧
    (s.cfg.bufSize < offOf s + 16 → exec .encode s = .next (withStatus s 0x00000002#32))

/-- R99 to R102: PARSE loads the header, and the timestamp when LEN ≥ 36, and changes nothing else;
its errors change STATUS only. -/
def Obligations.ParseLoadsTheDatagram : Prop :=
  ∀ s : State,
    (InRange s (lenOf s) → 36 ≤ lenOf s →
      exec .parse s = .next (withRegs s { headerTsRegs s with status := 0x00000030#32 })) ∧
    (InRange s (lenOf s) → 28 ≤ lenOf s → lenOf s < 36 →
      exec .parse s = .next (withRegs s { headerRegs s with status := 0x00000010#32 })) ∧
    (InRange s (lenOf s) → lenOf s < 28 →
      exec .parse s = .next (withStatus s 0x00000001#32)) ∧
    (s.cfg.bufSize < offOf s + lenOf s → exec .parse s = .next (withStatus s 0x00000002#32))

/-- R106, R108, R110: MATCH loads the datagram as PARSE does and reports whether it matched; a match
without a timestamp is a DecodeError with the header loaded. -/
def Obligations.MatchDecidesTheReply : Prop :=
  ∀ s : State,
    (InRange s (lenOf s) → 36 ≤ lenOf s → Matches s →
      exec .matchReply s = .next (withRegs s { headerTsRegs s with status := 0x00000070#32 })) ∧
    (InRange s (lenOf s) → 36 ≤ lenOf s → ¬ Matches s →
      exec .matchReply s = .next (withRegs s { headerTsRegs s with status := 0x00000030#32 })) ∧
    (InRange s (lenOf s) → 28 ≤ lenOf s → lenOf s < 36 → Matches s →
      exec .matchReply s = .next (withRegs s { headerRegs s with status := 0x00000011#32 })) ∧
    (InRange s (lenOf s) → 28 ≤ lenOf s → lenOf s < 36 → ¬ Matches s →
      exec .matchReply s = .next (withRegs s { headerRegs s with status := 0x00000010#32 })) ∧
    (InRange s (lenOf s) → lenOf s < 28 →
      exec .matchReply s = .next (withStatus s 0x00000001#32)) ∧
    (s.cfg.bufSize < offOf s + lenOf s →
      exec .matchReply s = .next (withStatus s 0x00000002#32))

/-- R76: every command completes from every state; none faults, none is refused. -/
def Obligations.EveryCommandCompletes : Prop :=
  ∀ (i : Instr) (s : State), ∃ t, exec i s = .next t

/-- R117: a command reports BOUNDS exactly when its range does not fit, computed without wrap, and
it then changes STATUS only; every command with a range. -/
def Obligations.BoundsExactlyWhenTheRangeDoesNotFit : Prop :=
  ∀ (i : Instr) (s t : State) (n : Nat), rangeLen s i = some n → exec i s = .next t →
    (t.regs.status = 0x00000002#32 ↔ s.cfg.bufSize < offOf s + n) ∧
    (s.cfg.bufSize < offOf s + n → t = withStatus s 0x00000002#32)

/-- R118: the order in which errors are reported. -/
def Obligations.FirstErrorInOrderIsReported : Prop :=
  (∀ (s : State) (rest : List Event) (w : Word) (t : State),
    s.inbox = .access ⟨.write, .w32, 0x01C, w⟩ :: rest → s.rst = false → IllegalCmd w →
      step s = .next t → t.regs.status = 0x00000003#32) ∧
  (∀ (i : Instr) (s t : State) (n : Nat), rangeLen s i = some n → exec i s = .next t →
    s.cfg.bufSize < offOf s + n → t.regs.status = 0x00000002#32) ∧
  (∀ (i : Instr) (s t : State), i = .parse ∨ i = .matchReply → exec i s = .next t →
    InRange s (lenOf s) → lenOf s < 28 → t.regs.status = 0x00000001#32) ∧
  (∀ s t : State, exec .matchReply s = .next t → InRange s (lenOf s) → 28 ≤ lenOf s →
    (t.regs.status = 0x00000011#32 ↔ lenOf s < 36 ∧ Matches s)) ∧
  (∀ s t : State, exec .parse s = .next t → InRange s (lenOf s) → 28 ≤ lenOf s →
    t.regs.status.extractLsb' 0 4 = 0#4)

/-! ### What a command may change -/

/-- R15: no command changes an operand register, the parameters or the port. -/
def Obligations.CommandsKeepOperandsAndPort : Prop :=
  ∀ (i : Instr) (s t : State), exec i s = .next t →
    t.regs.ctrl = s.regs.ctrl ∧ t.regs.ident = s.regs.ident ∧ t.regs.seq = s.regs.seq ∧
    t.regs.txtsLo = s.regs.txtsLo ∧ t.regs.txtsHi = s.regs.txtsHi ∧ t.regs.off = s.regs.off ∧
    t.regs.len = s.regs.len ∧ SameRest s t

/-- R90: only ENCODE changes a PBUF byte, only in the 16 bytes at OFF, and only when they fit. -/
def Obligations.OnlyEncodeChangesPbuf : Prop :=
  ∀ (i : Instr) (s t : State) (a : Nat), exec i s = .next t → t.pbufByte a ≠ s.pbufByte a →
    i = .encode ∧ offOf s ≤ a ∧ a < offOf s + 16 ∧ InRange s 16

/-- R32: RESULT is written by a CSUM or an ENCODE that succeeds, with its upper half zero, and by
nothing else. -/
def Obligations.OnlyCsumAndEncodeWriteResult : Prop :=
  ∀ (i : Instr) (s t : State), exec i s = .next t →
    (t.regs.result ≠ s.regs.result →
      (i = .csum ∨ i = .encode) ∧ t.regs.status = 0x00000000#32) ∧
    ((i = .csum ∨ i = .encode) → t.regs.status = 0x00000000#32 →
      t.regs.result.extractLsb' 16 16 = 0#16)

/-- R33, R34: only PARSE and MATCH write the RX registers, RXTS only with LEN ≥ 36. -/
def Obligations.OnlyDatagramCommandsWriteRx : Prop :=
  ∀ (i : Instr) (s t : State), exec i s = .next t →
    (t.regs.rxhdr0 ≠ s.regs.rxhdr0 ∨ t.regs.rxhdr1 ≠ s.regs.rxhdr1 →
      (i = .parse ∨ i = .matchReply) ∧ 28 ≤ lenOf s) ∧
    (t.regs.rxtsLo ≠ s.regs.rxtsLo ∨ t.regs.rxtsHi ≠ s.regs.rxtsHi →
      (i = .parse ∨ i = .matchReply) ∧ 36 ≤ lenOf s)

/-- R29, R30, R31: what the three validity bits of STATUS say after every command but NOP. -/
def Obligations.StatusBitsSayWhatTheyMean : Prop :=
  ∀ (i : Instr) (s t : State), i ≠ .nop → exec i s = .next t →
    (t.regs.status.getLsbD 4 = true ↔
      (i = .parse ∨ i = .matchReply) ∧ InRange s (lenOf s) ∧ 28 ≤ lenOf s) ∧
    (t.regs.status.getLsbD 5 = true ↔
      (i = .parse ∨ i = .matchReply) ∧ InRange s (lenOf s) ∧ 36 ≤ lenOf s) ∧
    (t.regs.status.getLsbD 6 = true ↔
      i = .matchReply ∧ InRange s (lenOf s) ∧ 36 ≤ lenOf s ∧ Matches s)

/-- R114: after a command other than NOP, STATUS is one of the eight values the command rules list,
so ERR is never 4 to 15 and the reserved bits are zero; NOP keeps it (R27). -/
def Obligations.StatusTakesAListedValue : Prop :=
  ∀ (i : Instr) (s t : State), exec i s = .next t →
    (i = .nop → t.regs.status = s.regs.status) ∧
    (i ≠ .nop → t.regs.status ∈ statusValues ∧ (t.regs.status.extractLsb' 0 4).toNat ≤ 3 ∧
      t.regs.status.extractLsb' 7 25 = 0#25)

/-- R28: a command that reports an error changed STATUS only, but for a MATCH whose timestamp is
missing, which loaded RXHDR0 and RXHDR1 too. -/
def Obligations.ErrorsChangeStatusOnly : Prop :=
  ∀ (i : Instr) (s t : State), i ≠ .nop → exec i s = .next t →
    t.regs.status.extractLsb' 0 4 ≠ 0#4 →
      t = withStatus s t.regs.status ∨
      (i = .matchReply ∧ t.regs.status = 0x00000011#32 ∧
        t = withRegs s { headerRegs s with status := 0x00000011#32 })

/-! ### The whole machine -/

/-- The invariant: every step from a legal state leads to a legal state. Its clause on the reset input
rests on the model's reading of R128 (log 6). -/
def Obligations.EveryStepKeepsTheInvariant : Prop :=
  ∀ s t : State, s.wf = true → step s = .next t → t.wf = true

/-- R45: a step is refused exactly when the pending access is one the interface gives no meaning,
and it never faults. -/
def Obligations.OnlyMeaninglessAccessesAreRefused : Prop :=
  ∀ s : State,
    (∀ r, step s ≠ .fault r) ∧
    (∀ (t : Transaction) (rest : List Event), s.inbox = .access t :: rest →
      ((∃ r, step s = .refused r) ↔ RefusedAccess t)) ∧
    (∀ (e : Event) (rest : List Event) (r : Refusal), s.inbox = e :: rest → step s = .refused r →
      (∃ t, e = .access t) ∨ (∃ d w a v, e = .busAccess d w a v))

/-- R49: an access at a bus address acts as the access at its offset from BASE. -/
def Obligations.BusAddressesCountFromBase : Prop :=
  ∀ (s : State) (rest : List Event) (d : Dir) (w : Width) (o : Nat) (v : Word),
    s.inbox = .busAccess d w (s.cfg.base + o) v :: rest →
      step s = step { s with inbox := .access ⟨d, w, o, v⟩ :: rest }

/-- R36, R8: no step changes BUF_SIZE or BASE, so INFO is constant. -/
def Obligations.ParametersNeverChange : Prop :=
  ∀ s t : State, step s = .next t → t.cfg = s.cfg ∧ t.readReg .info = s.readReg .info

/-- R15, R4: a result register changes only in a step that serves a CMD write or the reset input. -/
def Obligations.ResultRegistersChangeOnlyByCommandOrReset : Prop :=
  ∀ (s t : State), step s = .next t →
    (∀ e rest, s.inbox = e :: rest → ¬ StartsCommandOrReset s.cfg.base e) →
      t.regs.status = s.regs.status ∧ t.regs.result = s.regs.result ∧
      t.regs.rxhdr0 = s.regs.rxhdr0 ∧ t.regs.rxhdr1 = s.regs.rxhdr1 ∧
      t.regs.rxtsLo = s.regs.rxtsLo ∧ t.regs.rxtsHi = s.regs.rxtsHi

/-- R40, R42, R90, R133: a PBUF byte keeps its value, drawn (R44) or written, until a window write or
an ENCODE, complete or interrupted by reset, that covers it; no other byte exists. That a byte also
keeps its value over a reset event is R128 and R129 as log 5 reads them beside R44. -/
def Obligations.PbufBytesChangeOnlyByWriteOrEncode : Prop :=
  ∀ (s t : State) (a : Nat), step s = .next t → t.pbufByte a ≠ s.pbufByte a →
    a < s.cfg.bufSize ∧ ∃ e rest, s.inbox = e :: rest ∧ MayWriteByte s e a

/-- R51: a step serves the oldest pending host event and leaves the others pending, in their order. -/
def Obligations.HostEventsAreServedInOrder : Prop :=
  ∀ s t : State, step s = .next t → t.inbox = s.inbox.tail

/-! ### Host accesses -/

/-- R48: a read changes nothing but the read data on the port (log 2). That it completes while the
reset input is asserted too is the model's reading of R128 (log 6). -/
def Obligations.ReadsHaveNoSideEffect : Prop :=
  ∀ (s : State) (rest : List Event) (w : Width) (o : Nat) (v : Word),
    s.inbox = .access ⟨.read, w, o, v⟩ :: rest → ¬ RefusedAccess ⟨.read, w, o, v⟩ →
      ∃ x, step s = .next (readBack s rest x)

/-- R20 to R25: the host's writes to the operand registers, with the reset input released. -/
def Obligations.HostWritesOperandRegisters : Prop :=
  ∀ (s : State) (rest : List Event) (o : Nat) (v : Word),
    s.inbox = .access ⟨.write, .w32, o, v⟩ :: rest → s.rst = false →
      (o = 0x000 →
        step s = .next (withRegs (taken s rest) { s.regs with ctrl := v &&& 0x00000007#32 })) ∧
      (o = 0x004 →
        step s = .next (withRegs (taken s rest) { s.regs with ident := v &&& 0x0000FFFF#32 })) ∧
      (o = 0x008 →
        step s = .next (withRegs (taken s rest) { s.regs with seq := v &&& 0x0000FFFF#32 })) ∧
      (o = 0x00C → step s = .next (withRegs (taken s rest) { s.regs with txtsLo := v })) ∧
      (o = 0x010 → step s = .next (withRegs (taken s rest) { s.regs with txtsHi := v })) ∧
      (o = 0x014 →
        step s = .next (withRegs (taken s rest) { s.regs with off := v &&& 0x0000FFFF#32 })) ∧
      (o = 0x018 →
        step s = .next (withRegs (taken s rest) { s.regs with len := v &&& 0x0000FFFF#32 }))

/-- R15, R26, R36: what a 32-bit read returns at each offset of the register map. That a read answers
while the reset input is asserted too is the model's reading of R128 (log 6). -/
def Obligations.HostReadsEveryRegister : Prop :=
  ∀ (s : State) (rest : List Event) (o : Nat) (v : Word),
    s.inbox = .access ⟨.read, .w32, o, v⟩ :: rest →
      (o = 0x000 → step s = .next (readBack s rest s.regs.ctrl)) ∧
      (o = 0x004 → step s = .next (readBack s rest s.regs.ident)) ∧
      (o = 0x008 → step s = .next (readBack s rest s.regs.seq)) ∧
      (o = 0x00C → step s = .next (readBack s rest s.regs.txtsLo)) ∧
      (o = 0x010 → step s = .next (readBack s rest s.regs.txtsHi)) ∧
      (o = 0x014 → step s = .next (readBack s rest s.regs.off)) ∧
      (o = 0x018 → step s = .next (readBack s rest s.regs.len)) ∧
      (o = 0x01C → step s = .next (readBack s rest 0x00000000#32)) ∧
      (o = 0x020 → step s = .next (readBack s rest s.regs.status)) ∧
      (o = 0x024 → step s = .next (readBack s rest s.regs.result)) ∧
      (o = 0x028 → step s = .next (readBack s rest s.regs.rxhdr0)) ∧
      (o = 0x02C → step s = .next (readBack s rest s.regs.rxhdr1)) ∧
      (o = 0x030 → step s = .next (readBack s rest s.regs.rxtsLo)) ∧
      (o = 0x034 → step s = .next (readBack s rest s.regs.rxtsHi)) ∧
      (o = 0x038 → s.cfg.wf = true →
        ∃ x : Word, step s = .next (readBack s rest x) ∧ x.toNat = s.cfg.bufSize)

/-- R37, R38: an offset with no register reads as zero and ignores writes; a read-only register
ignores writes. -/
def Obligations.UnmappedAndReadOnlyIgnoreWrites : Prop :=
  ∀ (s : State) (rest : List Event) (o : Nat) (v : Word),
    (0x03C ≤ o → o < 0x1000 → o % 4 = 0 →
      (s.inbox = .access ⟨.read, .w32, o, v⟩ :: rest →
        step s = .next (readBack s rest 0x00000000#32)) ∧
      (s.inbox = .access ⟨.write, .w32, o, v⟩ :: rest → step s = .next (taken s rest))) ∧
    (o ∈ [0x020, 0x024, 0x028, 0x02C, 0x030, 0x034, 0x038] →
      s.inbox = .access ⟨.write, .w32, o, v⟩ :: rest → step s = .next (taken s rest))

/-- R42, R43: an aligned window write stores its lanes in the bytes below BUF_SIZE, and nothing
else changes. That the write lands while the reset input is asserted too is the model's reading of
R128 (log 6). -/
def Obligations.WindowWriteStoresItsLanes : Prop :=
  ∀ (s : State) (rest : List Event) (w : Width) (a : Nat) (v : Word),
    s.inbox = .access ⟨.write, w, 0x1000 + a, v⟩ :: rest → a < 0x1000 → a % w.bytes = 0 →
      ∃ t, step s = .next t ∧ t.regs = s.regs ∧ t.cfg = s.cfg ∧ t.rst = s.rst ∧
        t.rdata = none ∧ t.inbox = rest ∧ t.draws = s.draws ∧
        (∀ k, k < w.bytes → a + k < s.cfg.bufSize →
          t.pbufByte (a + k) = v.extractLsb' (8 * k) 8) ∧
        (∀ x, x < a ∨ a + w.bytes ≤ x ∨ s.cfg.bufSize ≤ x → t.pbufByte x = s.pbufByte x)

/-- R42, R43: an aligned window read returns its lanes, zero at or beyond BUF_SIZE. That the read data
is zero above the width of the access is the model's choice (log 2), and that the read answers while
the reset input is asserted too is the model's reading of R128 (log 6). -/
def Obligations.WindowReadReturnsItsLanes : Prop :=
  ∀ (s : State) (rest : List Event) (w : Width) (a : Nat) (v : Word),
    s.inbox = .access ⟨.read, w, 0x1000 + a, v⟩ :: rest → a < 0x1000 → a % w.bytes = 0 →
      ∃ x : Word, step s = .next (readBack s rest x) ∧
        ∀ k, k < 4 → x.extractLsb' (8 * k) 8 =
          if k < w.bytes ∧ a + k < s.cfg.bufSize then s.pbufByte (a + k) else 0x00#8

/-- R51: a window write is seen by the next access: reading the same lanes back gives the data
written. That the read data is zero above the width of the access is the model's choice (log 2), and
that both accesses act while the reset input is asserted too is the model's reading of R128 (log 6). -/
def Obligations.WindowReadSeesTheWriteBefore : Prop :=
  ∀ (s : State) (rest : List Event) (w : Width) (a : Nat) (v x : Word),
    s.inbox = .access ⟨.write, w, 0x1000 + a, v⟩ :: .access ⟨.read, w, 0x1000 + a, x⟩ :: rest →
      a + w.bytes ≤ s.cfg.bufSize → a < 0x1000 → a % w.bytes = 0 →
        ∃ t u y, step s = .next t ∧ step t = .next u ∧ u.rdata = some y ∧
          ∀ k, k < 4 → y.extractLsb' (8 * k) 8 =
            if k < w.bytes then v.extractLsb' (8 * k) 8 else 0x00#8

/-! ### Reset -/

/-- R128: while the reset input is asserted and when it is released every register holds its reset
value; PBUF keeps its bytes; a CMD write is ignored. That a write to another register has no effect
then is the model's reading of the same rule (log 6). -/
def Obligations.ResetInputHoldsTheRegisters : Prop :=
  ∀ (s : State) (rest : List Event),
    (s.inbox = .rst true :: rest →
      step s = .next { taken s rest with regs := Regs.reset, rst := true }) ∧
    (s.inbox = .rst false :: rest → s.rst = true →
      step s = .next { taken s rest with regs := Regs.reset, rst := false }) ∧
    (s.inbox = .rst false :: rest → s.rst = false → step s = .next (taken s rest)) ∧
    (∀ o v, s.inbox = .access ⟨.write, .w32, o, v⟩ :: rest → s.rst = true → o < 0x1000 →
      o % 4 = 0 → step s = .next (taken s rest))

/-- R133: a reset asserted during a CMD write gives every register its reset value; each byte that
ENCODE would have written holds its old or its new value, every other byte its old one. -/
def Obligations.ResetDuringCommandLeavesOldOrNewBytes : Prop :=
  ∀ (s : State) (rest : List Event) (w : Word), s.inbox = .rstDuringCmd w :: rest →
    ∃ t, step s = .next t ∧ t.regs = Regs.reset ∧ t.rst = true ∧ t.cfg = s.cfg ∧
      t.inbox = rest ∧ t.rdata = none ∧
      (∀ a, t.pbufByte a = s.pbufByte a ∨
        (w = 0x00000002#32 ∧ s.rst = false ∧ InRange s 16 ∧ offOf s ≤ a ∧ a < offOf s + 16 ∧
          t.pbufByte a = (requestBytes s).getD (a - offOf s) 0#8))

/-! ### The checksum -/

/-- R81: `fold` is the end-around carry: its loop equation, and what the spec itself infers from it:
its range, zero only for zero, and the congruence modulo 0xFFFF. -/
def Obligations.FoldIsTheEndAroundCarry : Prop :=
  ∀ acc : Word,
    (acc.toNat ≤ 0xFFFF → fold acc = acc) ∧
    (0xFFFF < acc.toNat → fold acc = fold ((acc >>> 16) + (acc &&& 0x0000FFFF#32))) ∧
    (fold acc).toNat ≤ 0xFFFF ∧ (fold acc = 0#32 ↔ acc = 0#32) ∧
    (fold acc).toNat % 0xFFFF = acc.toNat % 0xFFFF

/-- R80, R82: the checksum is the byte-swapped one's complement of the folded exact sum of the
little-endian pairs, for every input that fits in a PBUF. -/
def Obligations.ChecksumComplementsTheFoldedPairSum : Prop :=
  ∀ d : List Byte, d.length ≤ 4096 →
    (swapBytes (checksum d)).toNat = 0xFFFF - endAround (pairSum d)

/-- Zero padding changes nothing, whatever the length: an inference the spec marks as its own (R85,
from R80). -/
def Obligations.ZeroPaddingKeepsTheChecksum : Prop :=
  ∀ (d : List Byte) (k : Nat), checksum (d ++ List.replicate k 0x00#8) = checksum d

/-- The checksum is 0xFFFF exactly for all-zero input, the empty one included: an inference the spec
marks as its own (R89, from R80 to R82, with R82's bound on the length). -/
def Obligations.ChecksumIsAllOnesOnlyForZeroBytes : Prop :=
  ∀ d : List Byte, d.length ≤ 4096 → (checksum d = 0xFFFF#16 ↔ ∀ b ∈ d, b = 0x00#8)

/-- A checksum placed in its own range verifies to zero: an inference the spec marks as its own (R87,
from R80 and R81, with R82's bound on the length). -/
def Obligations.PlacedChecksumVerifiesToZero : Prop :=
  ∀ (d : List Byte) (p : Nat), d.length ≤ 4096 → d.length % 2 = 0 → p % 2 = 0 →
    p + 2 ≤ d.length → d.getD p 0xFF#8 = 0x00#8 → d.getD (p + 1) 0xFF#8 = 0x00#8 →
    (∃ b ∈ d, b ≠ 0x00#8) →
      checksum (patch2 d p ((swapBytes (checksum d)).extractLsb' 0 8)
        ((swapBytes (checksum d)).extractLsb' 8 8)) = 0x0000#16

/-- The checksum equals the one computed over most-significant-byte-first words: an inference the spec
marks as its own (R88, from R80 and R81, with R82's bound on the length). -/
def Obligations.ChecksumIsByteOrderIndependent : Prop :=
  ∀ d : List Byte, d.length ≤ 4096 → (checksum d).toNat = 0xFFFF - endAround (networkSum d)

/-! ### The encoder -/

/-- R11: the byte-order helpers are the spec's, and, by the spec's own inference there, reading undoes
writing. -/
def Obligations.ByteOrderHelpersAreInverse : Prop :=
  (∀ v : Half, swap16 v = swapBytes v ∧ hton16 .little v = swapBytes v ∧ hton16 .big v = v) ∧
  (∀ v : Half, put16 .little v = put2 false v ∧ put16 .big v = put2 true v) ∧
  (∀ b0 b1 : Byte, get16 .little [b0, b1] = get2 false b0 b1 ∧
    get16 .big [b0, b1] = get2 true b0 b1) ∧
  (∀ v : DWord, put64 .little v = put8 false v ∧ put64 .big v = put8 true v) ∧
  (∀ b : Nat → Byte, get64 .little ((List.range 8).map b) = get8 false b ∧
    get64 .big ((List.range 8).map b) = get8 true b) ∧
  (∀ (h : ByteOrder) (v : Half), get16 h (put16 h v) = v) ∧
  (∀ (h : ByteOrder) (v : DWord), get64 h (put64 h v) = v)

/-- The checksum slot's bytes are c[7:0] and c[15:8] in both host orders and under both policies, c
the one's complement of the folded sum of the zero-checksum packet: an inference the spec marks as
its own (R64, R96, from R80 and R90). -/
def Obligations.SlotBytesAreTheSameInBothOrders : Prop :=
  ∀ s : State,
    let c : Half := ~~~ (fold (sumPairs 0#32
      ([0x08#8, 0x00#8, 0x00#8, 0x00#8] ++ requestTail s))).extractLsb' 0 16
    InRange s 16 → ∃ t, exec .encode s = .next t ∧
      t.pbufByte (offOf s + 2) = c.extractLsb' 0 8 ∧ t.pbufByte (offOf s + 3) = c.extractLsb' 8 8

/-- POLICY has no effect on what ENCODE writes: an inference the spec marks as its own (R95, from
R92). -/
def Obligations.PolicyHasNoEffect : Prop :=
  ∀ s s' t t' : State,
    s' = withRegs s { s.regs with ctrl := s.regs.ctrl ^^^ 0x00000001#32 } →
    exec .encode s = .next t → exec .encode s' = .next t' →
      t'.regs.result = t.regs.result ∧ t'.regs.status = t.regs.status ∧
        ∀ a, t'.pbufByte a = t.pbufByte a

/-- ENCODE is deterministic in its operands, whatever PBUF, LEN and the rest of the state hold: an
inference the spec marks as its own (R98, from R90). -/
def Obligations.EncodeIsDeterministicInItsOperands : Prop :=
  ∀ s s' : State, offOf s = offOf s' → identOf s = identOf s' → seqOf s = seqOf s' →
    txtsOf s = txtsOf s' → bigOf s = bigOf s' → s.regs.ctrl.getLsbD 0 = s'.regs.ctrl.getLsbD 0 →
    InRange s 16 → InRange s' 16 →
      ∃ t t', exec .encode s = .next t ∧ exec .encode s' = .next t' ∧
        t.regs.result = t'.regs.result ∧
        ∀ i, i < 16 → t.pbufByte (offOf s + i) = t'.pbufByte (offOf s' + i)

/-- A CSUM over the 16 bytes ENCODE wrote gives RESULT = 0: an inference the spec marks as its own
(R97, from R87, R90). -/
def Obligations.EncodedRequestVerifies : Prop :=
  ∀ s : State, InRange s 16 →
    ∃ t u, exec .encode s = .next t ∧
      exec .csum (withRegs t { t.regs with len := 0x00000010#32 }) = .next u ∧
      u.regs.result = 0x00000000#32 ∧ u.regs.status = 0x00000000#32

/-! ### The matcher -/

/-- A different identifier never matches, in either mode: an inference the spec marks as its own (R112,
from R110). -/
def Obligations.DifferentIdentifierNeverMatches : Prop :=
  ∀ s t : State, replyIdent s ≠ identOf s → exec .matchReply s = .next t →
    t.regs.status.getLsbD 6 = false

/-- R111: permissive mode is the reset default, and in it a datagram of 36 bytes or more with the right identifier matches,
whatever its type, code and checksum. -/
def Obligations.PermissiveModeMatchesOnTheIdentifier : Prop :=
  strictOf State.reset = false ∧
  ∀ s : State, strictOf s = false → InRange s (lenOf s) → 36 ≤ lenOf s →
    replyIdent s = identOf s →
      ∃ t, exec .matchReply s = .next t ∧ t.regs.status = 0x00000070#32

/-- R66: PARSE and MATCH read no byte of the IPv4 header, and nothing outside the datagram. -/
def Obligations.IpHeaderIsNeverRead : Prop :=
  ∀ s s' t t' : State, s.regs = s'.regs → s.cfg = s'.cfg →
    (∀ k, 20 ≤ k → k < lenOf s → byteAt s k = byteAt s' k) →
      (exec .parse s = .next t → exec .parse s' = .next t' → t.regs = t'.regs) ∧
      (exec .matchReply s = .next t → exec .matchReply s' = .next t' → t.regs = t'.regs)

/-- A reply that carries an encoded request's bytes, with type 0 and a valid checksum, behind any 20
bytes, matches in both modes and gives the request's timestamp back: an inference the spec marks as
its own (R113, from R90, R102, R110). `s` encodes; `u` is the state in which the reply is matched. -/
def Obligations.ReplyToAnEncodedRequestMatches : Prop :=
  ∀ s t u : State,
    InRange s 16 → exec .encode s = .next t →
    bigOf u = bigOf s → identOf u = identOf s → lenOf u = 36 → InRange u 36 →
    byteAt u 20 = 0x00#8 →
    (∀ k, k = 1 ∨ 4 ≤ k → k < 16 → byteAt u (20 + k) = t.pbufByte (offOf s + k)) →
    checksum ((operand u).drop 20) = 0x0000#16 →
      ∃ v, exec .matchReply u = .next v ∧ v.regs.status = 0x00000070#32 ∧
        v.regs.rxtsHi ++ v.regs.rxtsLo = txtsOf s

/-! ### Transactions and programs as tuples -/

/-- R69: the tuple of an access that was served keeps direction, width and offset, a number of 13
bits; its data is the write data, or the read result on the port (log 2). Accesses with a longer
offset, which the model can write down (log 13), are served by no step. -/
def Obligations.TransactionTupleHoldsTheReadResult : Prop :=
  ∀ (s u : State) (t : Transaction) (rest : List Event),
    s.inbox = .access t :: rest → step s = .next u →
      (t.completed u).dir = t.dir ∧ (t.completed u).width = t.width ∧
      (t.completed u).offset = t.offset ∧ t.offset < 2 ^ 13 ∧
      (t.dir = .write → (t.completed u).data = t.data) ∧
      (t.dir = .read → u.rdata = some (t.completed u).data)

/-- R69: a program's encoding is the list of its transactions' tuples: the tuple of the first, then
the encoding of the rest from the state the first left; one tuple for each transaction, in order.
That a program is held as the inbox is the model's choice (log 1); so is the second clause, that a
program with an access that answers no next state has no encoding (log 13). -/
def Obligations.ProgramEncodingIsTheListOfTuples : Prop :=
  (∀ (s u : State) (t : Transaction) (p : List Transaction), s.inbox = [] →
    step (s.withProgram (t :: p)) = .next u →
      u.inbox = p.map Event.access ∧
      programEncoding (t :: p) s =
        (programEncoding p { u with inbox := [] }).map fun l => t.completed u :: l) ∧
  (∀ (s : State) (t : Transaction) (p : List Transaction), s.inbox = [] →
    (∀ u, step (s.withProgram (t :: p)) ≠ .next u) → programEncoding (t :: p) s = none) ∧
  (∀ (s : State) (p l : List Transaction), programEncoding p s = some l →
    l.map (fun x => (x.dir, x.width, x.offset)) = p.map fun x => (x.dir, x.width, x.offset)) ∧
  (∀ s : State, programEncoding [] s = some []) ∧
  (wr32 0x01C 0x1#32).dir = .write ∧ (wr32 0x01C 0x1#32).width = .w32 ∧
    (wr32 0x01C 0x1#32).offset = 0x01C ∧ (wr32 0x01C 0x1#32).data = 0x00000001#32
end

