-- ==== Sys2Proof/Laws/State.lean ====
section
/-!
SUPPORT. What each update of the state leaves and changes, field by field, so that no proof has to
unfold a record update.
-/
namespace Sys2Proof.Machine


/-! ### setStatus -/

@[simp] theorem State.setStatus_cfg (s : State) (v : Word) :
    (s.setStatus v).cfg = s.cfg := rfl
@[simp] theorem State.setStatus_pbuf (s : State) (v : Word) :
    (s.setStatus v).pbuf = s.pbuf := rfl
@[simp] theorem State.setStatus_rst (s : State) (v : Word) :
    (s.setStatus v).rst = s.rst := rfl
@[simp] theorem State.setStatus_rdata (s : State) (v : Word) :
    (s.setStatus v).rdata = s.rdata := rfl
@[simp] theorem State.setStatus_inbox (s : State) (v : Word) :
    (s.setStatus v).inbox = s.inbox := rfl
@[simp] theorem State.setStatus_draws (s : State) (v : Word) :
    (s.setStatus v).draws = s.draws := rfl
@[simp] theorem State.setStatus_ctrl (s : State) (v : Word) :
    (s.setStatus v).regs.ctrl = s.regs.ctrl := rfl
@[simp] theorem State.setStatus_ident (s : State) (v : Word) :
    (s.setStatus v).regs.ident = s.regs.ident := rfl
@[simp] theorem State.setStatus_seq (s : State) (v : Word) :
    (s.setStatus v).regs.seq = s.regs.seq := rfl
@[simp] theorem State.setStatus_txtsLo (s : State) (v : Word) :
    (s.setStatus v).regs.txtsLo = s.regs.txtsLo := rfl
@[simp] theorem State.setStatus_txtsHi (s : State) (v : Word) :
    (s.setStatus v).regs.txtsHi = s.regs.txtsHi := rfl
@[simp] theorem State.setStatus_off (s : State) (v : Word) :
    (s.setStatus v).regs.off = s.regs.off := rfl
@[simp] theorem State.setStatus_len (s : State) (v : Word) :
    (s.setStatus v).regs.len = s.regs.len := rfl
@[simp] theorem State.setStatus_status (s : State) (v : Word) :
    (s.setStatus v).regs.status = v := rfl
@[simp] theorem State.setStatus_result (s : State) (v : Word) :
    (s.setStatus v).regs.result = s.regs.result := rfl
@[simp] theorem State.setStatus_rxhdr0 (s : State) (v : Word) :
    (s.setStatus v).regs.rxhdr0 = s.regs.rxhdr0 := rfl
@[simp] theorem State.setStatus_rxhdr1 (s : State) (v : Word) :
    (s.setStatus v).regs.rxhdr1 = s.regs.rxhdr1 := rfl
@[simp] theorem State.setStatus_rxtsLo (s : State) (v : Word) :
    (s.setStatus v).regs.rxtsLo = s.regs.rxtsLo := rfl
@[simp] theorem State.setStatus_rxtsHi (s : State) (v : Word) :
    (s.setStatus v).regs.rxtsHi = s.regs.rxtsHi := rfl
@[simp] theorem State.setStatus_policy (s : State) (v : Word) :
    (s.setStatus v).regs.policy = s.regs.policy := rfl
@[simp] theorem State.setStatus_horder (s : State) (v : Word) :
    (s.setStatus v).regs.horder = s.regs.horder := rfl
@[simp] theorem State.setStatus_strict (s : State) (v : Word) :
    (s.setStatus v).regs.strict = s.regs.strict := rfl
@[simp] theorem State.setStatus_ident16 (s : State) (v : Word) :
    (s.setStatus v).regs.ident16 = s.regs.ident16 := rfl
@[simp] theorem State.setStatus_seq16 (s : State) (v : Word) :
    (s.setStatus v).regs.seq16 = s.regs.seq16 := rfl
@[simp] theorem State.setStatus_offNat (s : State) (v : Word) :
    (s.setStatus v).regs.offNat = s.regs.offNat := rfl
@[simp] theorem State.setStatus_lenNat (s : State) (v : Word) :
    (s.setStatus v).regs.lenNat = s.regs.lenNat := rfl
@[simp] theorem State.setStatus_txts (s : State) (v : Word) :
    (s.setStatus v).regs.txts = s.regs.txts := rfl
@[simp] theorem State.setStatus_packet (s : State) (v : Word) :
    (s.setStatus v).regs.packet = s.regs.packet := rfl
@[simp] theorem State.setStatus_slot (s : State) (v : Word) :
    (s.setStatus v).regs.slot = s.regs.slot := rfl
@[simp] theorem State.setStatus_pbufByte (s : State) (v : Word) (a : Nat) :
    (s.setStatus v).pbufByte a = s.pbufByte a := rfl
@[simp] theorem State.setStatus_pbufBytes (s : State) (v : Word) (a n : Nat) :
    (s.setStatus v).pbufBytes a n = s.pbufBytes a n := rfl

/-! ### setResult -/

@[simp] theorem State.setResult_cfg (s : State) (v : Half) :
    (s.setResult v).cfg = s.cfg := rfl
@[simp] theorem State.setResult_pbuf (s : State) (v : Half) :
    (s.setResult v).pbuf = s.pbuf := rfl
@[simp] theorem State.setResult_rst (s : State) (v : Half) :
    (s.setResult v).rst = s.rst := rfl
@[simp] theorem State.setResult_rdata (s : State) (v : Half) :
    (s.setResult v).rdata = s.rdata := rfl
@[simp] theorem State.setResult_inbox (s : State) (v : Half) :
    (s.setResult v).inbox = s.inbox := rfl
@[simp] theorem State.setResult_draws (s : State) (v : Half) :
    (s.setResult v).draws = s.draws := rfl
@[simp] theorem State.setResult_ctrl (s : State) (v : Half) :
    (s.setResult v).regs.ctrl = s.regs.ctrl := rfl
@[simp] theorem State.setResult_ident (s : State) (v : Half) :
    (s.setResult v).regs.ident = s.regs.ident := rfl
@[simp] theorem State.setResult_seq (s : State) (v : Half) :
    (s.setResult v).regs.seq = s.regs.seq := rfl
@[simp] theorem State.setResult_txtsLo (s : State) (v : Half) :
    (s.setResult v).regs.txtsLo = s.regs.txtsLo := rfl
@[simp] theorem State.setResult_txtsHi (s : State) (v : Half) :
    (s.setResult v).regs.txtsHi = s.regs.txtsHi := rfl
@[simp] theorem State.setResult_off (s : State) (v : Half) :
    (s.setResult v).regs.off = s.regs.off := rfl
@[simp] theorem State.setResult_len (s : State) (v : Half) :
    (s.setResult v).regs.len = s.regs.len := rfl
@[simp] theorem State.setResult_status (s : State) (v : Half) :
    (s.setResult v).regs.status = s.regs.status := rfl
@[simp] theorem State.setResult_result (s : State) (v : Half) :
    (s.setResult v).regs.result = v.setWidth 32 := rfl
@[simp] theorem State.setResult_rxhdr0 (s : State) (v : Half) :
    (s.setResult v).regs.rxhdr0 = s.regs.rxhdr0 := rfl
@[simp] theorem State.setResult_rxhdr1 (s : State) (v : Half) :
    (s.setResult v).regs.rxhdr1 = s.regs.rxhdr1 := rfl
@[simp] theorem State.setResult_rxtsLo (s : State) (v : Half) :
    (s.setResult v).regs.rxtsLo = s.regs.rxtsLo := rfl
@[simp] theorem State.setResult_rxtsHi (s : State) (v : Half) :
    (s.setResult v).regs.rxtsHi = s.regs.rxtsHi := rfl
@[simp] theorem State.setResult_policy (s : State) (v : Half) :
    (s.setResult v).regs.policy = s.regs.policy := rfl
@[simp] theorem State.setResult_horder (s : State) (v : Half) :
    (s.setResult v).regs.horder = s.regs.horder := rfl
@[simp] theorem State.setResult_strict (s : State) (v : Half) :
    (s.setResult v).regs.strict = s.regs.strict := rfl
@[simp] theorem State.setResult_ident16 (s : State) (v : Half) :
    (s.setResult v).regs.ident16 = s.regs.ident16 := rfl
@[simp] theorem State.setResult_seq16 (s : State) (v : Half) :
    (s.setResult v).regs.seq16 = s.regs.seq16 := rfl
@[simp] theorem State.setResult_offNat (s : State) (v : Half) :
    (s.setResult v).regs.offNat = s.regs.offNat := rfl
@[simp] theorem State.setResult_lenNat (s : State) (v : Half) :
    (s.setResult v).regs.lenNat = s.regs.lenNat := rfl
@[simp] theorem State.setResult_txts (s : State) (v : Half) :
    (s.setResult v).regs.txts = s.regs.txts := rfl
@[simp] theorem State.setResult_packet (s : State) (v : Half) :
    (s.setResult v).regs.packet = s.regs.packet := rfl
@[simp] theorem State.setResult_slot (s : State) (v : Half) :
    (s.setResult v).regs.slot = s.regs.slot := rfl
@[simp] theorem State.setResult_pbufByte (s : State) (v : Half) (a : Nat) :
    (s.setResult v).pbufByte a = s.pbufByte a := rfl
@[simp] theorem State.setResult_pbufBytes (s : State) (v : Half) (a n : Nat) :
    (s.setResult v).pbufBytes a n = s.pbufBytes a n := rfl

/-! ### setRxHdr -/

@[simp] theorem State.setRxHdr_cfg (s : State) (h0 h1 : Word) :
    (s.setRxHdr h0 h1).cfg = s.cfg := rfl
@[simp] theorem State.setRxHdr_pbuf (s : State) (h0 h1 : Word) :
    (s.setRxHdr h0 h1).pbuf = s.pbuf := rfl
@[simp] theorem State.setRxHdr_rst (s : State) (h0 h1 : Word) :
    (s.setRxHdr h0 h1).rst = s.rst := rfl
@[simp] theorem State.setRxHdr_rdata (s : State) (h0 h1 : Word) :
    (s.setRxHdr h0 h1).rdata = s.rdata := rfl
@[simp] theorem State.setRxHdr_inbox (s : State) (h0 h1 : Word) :
    (s.setRxHdr h0 h1).inbox = s.inbox := rfl
@[simp] theorem State.setRxHdr_draws (s : State) (h0 h1 : Word) :
    (s.setRxHdr h0 h1).draws = s.draws := rfl
@[simp] theorem State.setRxHdr_ctrl (s : State) (h0 h1 : Word) :
    (s.setRxHdr h0 h1).regs.ctrl = s.regs.ctrl := rfl
@[simp] theorem State.setRxHdr_ident (s : State) (h0 h1 : Word) :
    (s.setRxHdr h0 h1).regs.ident = s.regs.ident := rfl
@[simp] theorem State.setRxHdr_seq (s : State) (h0 h1 : Word) :
    (s.setRxHdr h0 h1).regs.seq = s.regs.seq := rfl
@[simp] theorem State.setRxHdr_txtsLo (s : State) (h0 h1 : Word) :
    (s.setRxHdr h0 h1).regs.txtsLo = s.regs.txtsLo := rfl
@[simp] theorem State.setRxHdr_txtsHi (s : State) (h0 h1 : Word) :
    (s.setRxHdr h0 h1).regs.txtsHi = s.regs.txtsHi := rfl
@[simp] theorem State.setRxHdr_off (s : State) (h0 h1 : Word) :
    (s.setRxHdr h0 h1).regs.off = s.regs.off := rfl
@[simp] theorem State.setRxHdr_len (s : State) (h0 h1 : Word) :
    (s.setRxHdr h0 h1).regs.len = s.regs.len := rfl
@[simp] theorem State.setRxHdr_status (s : State) (h0 h1 : Word) :
    (s.setRxHdr h0 h1).regs.status = s.regs.status := rfl
@[simp] theorem State.setRxHdr_result (s : State) (h0 h1 : Word) :
    (s.setRxHdr h0 h1).regs.result = s.regs.result := rfl
@[simp] theorem State.setRxHdr_rxhdr0 (s : State) (h0 h1 : Word) :
    (s.setRxHdr h0 h1).regs.rxhdr0 = h0 := rfl
@[simp] theorem State.setRxHdr_rxhdr1 (s : State) (h0 h1 : Word) :
    (s.setRxHdr h0 h1).regs.rxhdr1 = h1 := rfl
@[simp] theorem State.setRxHdr_rxtsLo (s : State) (h0 h1 : Word) :
    (s.setRxHdr h0 h1).regs.rxtsLo = s.regs.rxtsLo := rfl
@[simp] theorem State.setRxHdr_rxtsHi (s : State) (h0 h1 : Word) :
    (s.setRxHdr h0 h1).regs.rxtsHi = s.regs.rxtsHi := rfl
@[simp] theorem State.setRxHdr_policy (s : State) (h0 h1 : Word) :
    (s.setRxHdr h0 h1).regs.policy = s.regs.policy := rfl
@[simp] theorem State.setRxHdr_horder (s : State) (h0 h1 : Word) :
    (s.setRxHdr h0 h1).regs.horder = s.regs.horder := rfl
@[simp] theorem State.setRxHdr_strict (s : State) (h0 h1 : Word) :
    (s.setRxHdr h0 h1).regs.strict = s.regs.strict := rfl
@[simp] theorem State.setRxHdr_ident16 (s : State) (h0 h1 : Word) :
    (s.setRxHdr h0 h1).regs.ident16 = s.regs.ident16 := rfl
@[simp] theorem State.setRxHdr_seq16 (s : State) (h0 h1 : Word) :
    (s.setRxHdr h0 h1).regs.seq16 = s.regs.seq16 := rfl
@[simp] theorem State.setRxHdr_offNat (s : State) (h0 h1 : Word) :
    (s.setRxHdr h0 h1).regs.offNat = s.regs.offNat := rfl
@[simp] theorem State.setRxHdr_lenNat (s : State) (h0 h1 : Word) :
    (s.setRxHdr h0 h1).regs.lenNat = s.regs.lenNat := rfl
@[simp] theorem State.setRxHdr_txts (s : State) (h0 h1 : Word) :
    (s.setRxHdr h0 h1).regs.txts = s.regs.txts := rfl
@[simp] theorem State.setRxHdr_packet (s : State) (h0 h1 : Word) :
    (s.setRxHdr h0 h1).regs.packet = s.regs.packet := rfl
@[simp] theorem State.setRxHdr_slot (s : State) (h0 h1 : Word) :
    (s.setRxHdr h0 h1).regs.slot = s.regs.slot := rfl
@[simp] theorem State.setRxHdr_pbufByte (s : State) (h0 h1 : Word) (a : Nat) :
    (s.setRxHdr h0 h1).pbufByte a = s.pbufByte a := rfl
@[simp] theorem State.setRxHdr_pbufBytes (s : State) (h0 h1 : Word) (a n : Nat) :
    (s.setRxHdr h0 h1).pbufBytes a n = s.pbufBytes a n := rfl

/-! ### setRxTs -/

@[simp] theorem State.setRxTs_cfg (s : State) (ts : DWord) :
    (s.setRxTs ts).cfg = s.cfg := rfl
@[simp] theorem State.setRxTs_pbuf (s : State) (ts : DWord) :
    (s.setRxTs ts).pbuf = s.pbuf := rfl
@[simp] theorem State.setRxTs_rst (s : State) (ts : DWord) :
    (s.setRxTs ts).rst = s.rst := rfl
@[simp] theorem State.setRxTs_rdata (s : State) (ts : DWord) :
    (s.setRxTs ts).rdata = s.rdata := rfl
@[simp] theorem State.setRxTs_inbox (s : State) (ts : DWord) :
    (s.setRxTs ts).inbox = s.inbox := rfl
@[simp] theorem State.setRxTs_draws (s : State) (ts : DWord) :
    (s.setRxTs ts).draws = s.draws := rfl
@[simp] theorem State.setRxTs_ctrl (s : State) (ts : DWord) :
    (s.setRxTs ts).regs.ctrl = s.regs.ctrl := rfl
@[simp] theorem State.setRxTs_ident (s : State) (ts : DWord) :
    (s.setRxTs ts).regs.ident = s.regs.ident := rfl
@[simp] theorem State.setRxTs_seq (s : State) (ts : DWord) :
    (s.setRxTs ts).regs.seq = s.regs.seq := rfl
@[simp] theorem State.setRxTs_txtsLo (s : State) (ts : DWord) :
    (s.setRxTs ts).regs.txtsLo = s.regs.txtsLo := rfl
@[simp] theorem State.setRxTs_txtsHi (s : State) (ts : DWord) :
    (s.setRxTs ts).regs.txtsHi = s.regs.txtsHi := rfl
@[simp] theorem State.setRxTs_off (s : State) (ts : DWord) :
    (s.setRxTs ts).regs.off = s.regs.off := rfl
@[simp] theorem State.setRxTs_len (s : State) (ts : DWord) :
    (s.setRxTs ts).regs.len = s.regs.len := rfl
@[simp] theorem State.setRxTs_status (s : State) (ts : DWord) :
    (s.setRxTs ts).regs.status = s.regs.status := rfl
@[simp] theorem State.setRxTs_result (s : State) (ts : DWord) :
    (s.setRxTs ts).regs.result = s.regs.result := rfl
@[simp] theorem State.setRxTs_rxhdr0 (s : State) (ts : DWord) :
    (s.setRxTs ts).regs.rxhdr0 = s.regs.rxhdr0 := rfl
@[simp] theorem State.setRxTs_rxhdr1 (s : State) (ts : DWord) :
    (s.setRxTs ts).regs.rxhdr1 = s.regs.rxhdr1 := rfl
@[simp] theorem State.setRxTs_rxtsLo (s : State) (ts : DWord) :
    (s.setRxTs ts).regs.rxtsLo = ts.extractLsb' 0 32 := rfl
@[simp] theorem State.setRxTs_rxtsHi (s : State) (ts : DWord) :
    (s.setRxTs ts).regs.rxtsHi = ts.extractLsb' 32 32 := rfl
@[simp] theorem State.setRxTs_policy (s : State) (ts : DWord) :
    (s.setRxTs ts).regs.policy = s.regs.policy := rfl
@[simp] theorem State.setRxTs_horder (s : State) (ts : DWord) :
    (s.setRxTs ts).regs.horder = s.regs.horder := rfl
@[simp] theorem State.setRxTs_strict (s : State) (ts : DWord) :
    (s.setRxTs ts).regs.strict = s.regs.strict := rfl
@[simp] theorem State.setRxTs_ident16 (s : State) (ts : DWord) :
    (s.setRxTs ts).regs.ident16 = s.regs.ident16 := rfl
@[simp] theorem State.setRxTs_seq16 (s : State) (ts : DWord) :
    (s.setRxTs ts).regs.seq16 = s.regs.seq16 := rfl
@[simp] theorem State.setRxTs_offNat (s : State) (ts : DWord) :
    (s.setRxTs ts).regs.offNat = s.regs.offNat := rfl
@[simp] theorem State.setRxTs_lenNat (s : State) (ts : DWord) :
    (s.setRxTs ts).regs.lenNat = s.regs.lenNat := rfl
@[simp] theorem State.setRxTs_txts (s : State) (ts : DWord) :
    (s.setRxTs ts).regs.txts = s.regs.txts := rfl
@[simp] theorem State.setRxTs_packet (s : State) (ts : DWord) :
    (s.setRxTs ts).regs.packet = s.regs.packet := rfl
@[simp] theorem State.setRxTs_slot (s : State) (ts : DWord) :
    (s.setRxTs ts).regs.slot = s.regs.slot := rfl
@[simp] theorem State.setRxTs_pbufByte (s : State) (ts : DWord) (a : Nat) :
    (s.setRxTs ts).pbufByte a = s.pbufByte a := rfl
@[simp] theorem State.setRxTs_pbufBytes (s : State) (ts : DWord) (a n : Nat) :
    (s.setRxTs ts).pbufBytes a n = s.pbufBytes a n := rfl

/-! ### raise -/

@[simp] theorem State.raise_cfg (s : State) (e : ErrCode) :
    (s.raise e).cfg = s.cfg := rfl
@[simp] theorem State.raise_pbuf (s : State) (e : ErrCode) :
    (s.raise e).pbuf = s.pbuf := rfl
@[simp] theorem State.raise_rst (s : State) (e : ErrCode) :
    (s.raise e).rst = s.rst := rfl
@[simp] theorem State.raise_rdata (s : State) (e : ErrCode) :
    (s.raise e).rdata = s.rdata := rfl
@[simp] theorem State.raise_inbox (s : State) (e : ErrCode) :
    (s.raise e).inbox = s.inbox := rfl
@[simp] theorem State.raise_draws (s : State) (e : ErrCode) :
    (s.raise e).draws = s.draws := rfl
@[simp] theorem State.raise_ctrl (s : State) (e : ErrCode) :
    (s.raise e).regs.ctrl = s.regs.ctrl := rfl
@[simp] theorem State.raise_ident (s : State) (e : ErrCode) :
    (s.raise e).regs.ident = s.regs.ident := rfl
@[simp] theorem State.raise_seq (s : State) (e : ErrCode) :
    (s.raise e).regs.seq = s.regs.seq := rfl
@[simp] theorem State.raise_txtsLo (s : State) (e : ErrCode) :
    (s.raise e).regs.txtsLo = s.regs.txtsLo := rfl
@[simp] theorem State.raise_txtsHi (s : State) (e : ErrCode) :
    (s.raise e).regs.txtsHi = s.regs.txtsHi := rfl
@[simp] theorem State.raise_off (s : State) (e : ErrCode) :
    (s.raise e).regs.off = s.regs.off := rfl
@[simp] theorem State.raise_len (s : State) (e : ErrCode) :
    (s.raise e).regs.len = s.regs.len := rfl
@[simp] theorem State.raise_status (s : State) (e : ErrCode) :
    (s.raise e).regs.status = statusWord e false false false := rfl
@[simp] theorem State.raise_result (s : State) (e : ErrCode) :
    (s.raise e).regs.result = s.regs.result := rfl
@[simp] theorem State.raise_rxhdr0 (s : State) (e : ErrCode) :
    (s.raise e).regs.rxhdr0 = s.regs.rxhdr0 := rfl
@[simp] theorem State.raise_rxhdr1 (s : State) (e : ErrCode) :
    (s.raise e).regs.rxhdr1 = s.regs.rxhdr1 := rfl
@[simp] theorem State.raise_rxtsLo (s : State) (e : ErrCode) :
    (s.raise e).regs.rxtsLo = s.regs.rxtsLo := rfl
@[simp] theorem State.raise_rxtsHi (s : State) (e : ErrCode) :
    (s.raise e).regs.rxtsHi = s.regs.rxtsHi := rfl
@[simp] theorem State.raise_policy (s : State) (e : ErrCode) :
    (s.raise e).regs.policy = s.regs.policy := rfl
@[simp] theorem State.raise_horder (s : State) (e : ErrCode) :
    (s.raise e).regs.horder = s.regs.horder := rfl
@[simp] theorem State.raise_strict (s : State) (e : ErrCode) :
    (s.raise e).regs.strict = s.regs.strict := rfl
@[simp] theorem State.raise_ident16 (s : State) (e : ErrCode) :
    (s.raise e).regs.ident16 = s.regs.ident16 := rfl
@[simp] theorem State.raise_seq16 (s : State) (e : ErrCode) :
    (s.raise e).regs.seq16 = s.regs.seq16 := rfl
@[simp] theorem State.raise_offNat (s : State) (e : ErrCode) :
    (s.raise e).regs.offNat = s.regs.offNat := rfl
@[simp] theorem State.raise_lenNat (s : State) (e : ErrCode) :
    (s.raise e).regs.lenNat = s.regs.lenNat := rfl
@[simp] theorem State.raise_txts (s : State) (e : ErrCode) :
    (s.raise e).regs.txts = s.regs.txts := rfl
@[simp] theorem State.raise_packet (s : State) (e : ErrCode) :
    (s.raise e).regs.packet = s.regs.packet := rfl
@[simp] theorem State.raise_slot (s : State) (e : ErrCode) :
    (s.raise e).regs.slot = s.regs.slot := rfl
@[simp] theorem State.raise_pbufByte (s : State) (e : ErrCode) (a : Nat) :
    (s.raise e).pbufByte a = s.pbufByte a := rfl
@[simp] theorem State.raise_pbufBytes (s : State) (e : ErrCode) (a n : Nat) :
    (s.raise e).pbufBytes a n = s.pbufBytes a n := rfl

/-! ### setPbuf -/

@[simp] theorem State.setPbuf_cfg (s : State) (m : Memory) :
    (s.setPbuf m).cfg = s.cfg := rfl
@[simp] theorem State.setPbuf_regs (s : State) (m : Memory) :
    (s.setPbuf m).regs = s.regs := rfl
@[simp] theorem State.setPbuf_pbuf (s : State) (m : Memory) :
    (s.setPbuf m).pbuf = m := rfl
@[simp] theorem State.setPbuf_rst (s : State) (m : Memory) :
    (s.setPbuf m).rst = s.rst := rfl
@[simp] theorem State.setPbuf_rdata (s : State) (m : Memory) :
    (s.setPbuf m).rdata = s.rdata := rfl
@[simp] theorem State.setPbuf_inbox (s : State) (m : Memory) :
    (s.setPbuf m).inbox = s.inbox := rfl
@[simp] theorem State.setPbuf_draws (s : State) (m : Memory) :
    (s.setPbuf m).draws = s.draws := rfl

/-! ### setRdata -/

@[simp] theorem State.setRdata_cfg (s : State) (v : Word) :
    (s.setRdata v).cfg = s.cfg := rfl
@[simp] theorem State.setRdata_regs (s : State) (v : Word) :
    (s.setRdata v).regs = s.regs := rfl
@[simp] theorem State.setRdata_pbuf (s : State) (v : Word) :
    (s.setRdata v).pbuf = s.pbuf := rfl
@[simp] theorem State.setRdata_rst (s : State) (v : Word) :
    (s.setRdata v).rst = s.rst := rfl
@[simp] theorem State.setRdata_rdata (s : State) (v : Word) :
    (s.setRdata v).rdata = some v := rfl
@[simp] theorem State.setRdata_inbox (s : State) (v : Word) :
    (s.setRdata v).inbox = s.inbox := rfl
@[simp] theorem State.setRdata_draws (s : State) (v : Word) :
    (s.setRdata v).draws = s.draws := rfl
@[simp] theorem State.setRdata_pbufByte (s : State) (v : Word) (a : Nat) :
    (s.setRdata v).pbufByte a = s.pbufByte a := rfl
@[simp] theorem State.setRdata_pbufBytes (s : State) (v : Word) (a n : Nat) :
    (s.setRdata v).pbufBytes a n = s.pbufBytes a n := rfl

/-! ### accept -/

@[simp] theorem State.accept_cfg (s : State) (rest : List Event) :
    (s.accept rest).cfg = s.cfg := rfl
@[simp] theorem State.accept_regs (s : State) (rest : List Event) :
    (s.accept rest).regs = s.regs := rfl
@[simp] theorem State.accept_pbuf (s : State) (rest : List Event) :
    (s.accept rest).pbuf = s.pbuf := rfl
@[simp] theorem State.accept_rst (s : State) (rest : List Event) :
    (s.accept rest).rst = s.rst := rfl
@[simp] theorem State.accept_rdata (s : State) (rest : List Event) :
    (s.accept rest).rdata = none := rfl
@[simp] theorem State.accept_inbox (s : State) (rest : List Event) :
    (s.accept rest).inbox = rest := rfl
@[simp] theorem State.accept_draws (s : State) (rest : List Event) :
    (s.accept rest).draws = s.draws := rfl
@[simp] theorem State.accept_pbufByte (s : State) (rest : List Event) (a : Nat) :
    (s.accept rest).pbufByte a = s.pbufByte a := rfl
@[simp] theorem State.accept_pbufBytes (s : State) (rest : List Event) (a n : Nat) :
    (s.accept rest).pbufBytes a n = s.pbufBytes a n := rfl

/-! ### assertReset -/

@[simp] theorem State.assertReset_cfg (s : State) :
    s.assertReset.cfg = s.cfg := rfl
@[simp] theorem State.assertReset_regs (s : State) :
    s.assertReset.regs = Regs.reset := rfl
@[simp] theorem State.assertReset_pbuf (s : State) :
    s.assertReset.pbuf = s.pbuf := rfl
@[simp] theorem State.assertReset_rst (s : State) :
    s.assertReset.rst = true := rfl
@[simp] theorem State.assertReset_rdata (s : State) :
    s.assertReset.rdata = s.rdata := rfl
@[simp] theorem State.assertReset_inbox (s : State) :
    s.assertReset.inbox = s.inbox := rfl
@[simp] theorem State.assertReset_draws (s : State) :
    s.assertReset.draws = s.draws := rfl
@[simp] theorem State.assertReset_pbufByte (s : State) (a : Nat) :
    s.assertReset.pbufByte a = s.pbufByte a := rfl
@[simp] theorem State.assertReset_pbufBytes (s : State) (a n : Nat) :
    s.assertReset.pbufBytes a n = s.pbufBytes a n := rfl

/-! ### releaseReset -/

@[simp] theorem State.releaseReset_cfg (s : State) : s.releaseReset.cfg = s.cfg := by
  unfold State.releaseReset; split <;> rfl
@[simp] theorem State.releaseReset_pbuf (s : State) : s.releaseReset.pbuf = s.pbuf := by
  unfold State.releaseReset; split <;> rfl
@[simp] theorem State.releaseReset_rst (s : State) : s.releaseReset.rst = false := by
  unfold State.releaseReset; split <;> simp_all
@[simp] theorem State.releaseReset_rdata (s : State) : s.releaseReset.rdata = s.rdata := by
  unfold State.releaseReset; split <;> rfl
@[simp] theorem State.releaseReset_inbox (s : State) : s.releaseReset.inbox = s.inbox := by
  unfold State.releaseReset; split <;> rfl
@[simp] theorem State.releaseReset_draws (s : State) : s.releaseReset.draws = s.draws := by
  unfold State.releaseReset; split <;> rfl

/-- Releasing the input leaves the reset values if it was asserted, the registers as they were
otherwise. -/
theorem State.releaseReset_regs (s : State) :
    s.releaseReset.regs = if s.rst then Regs.reset else s.regs := by
  unfold State.releaseReset; split <;> rfl

end Sys2Proof.Machine
end

