-- ==== Sys2Proof/Laws/Memory.lean ====
section
/-!
SUPPORT. PBUF as a list: reading after writing, and the canonical form every operation keeps.
-/
namespace Sys2Proof.Machine

/-- Reading one byte after listing one. -/
theorem Memory.get_put (m : Memory) (x : Nat) (v : Byte) (y : Nat) :
    Memory.get (Memory.put m x v) y = if y = x then some v else Memory.get m y := by
  induction m with
  | nil => rfl
  | cons c r ih =>
    obtain ⟨a, b⟩ := c
    simp only [Memory.put]
    split
    · rfl
    · split
      · next h => subst h; simp only [Memory.get]; split <;> rfl
      · simp only [Memory.get, ih]
        split <;> split <;> first | rfl | omega

/-- Reading one byte after listing a run of bytes. -/
theorem Memory.get_putAll (d : List Byte) (m : Memory) (a y : Nat) :
    Memory.get (Memory.putAll m a d) y
      = if a ≤ y ∧ y < a + d.length then d[y - a]? else Memory.get m y := by
  induction d generalizing m a with
  | nil => simp [Memory.putAll]
  | cons b r ih =>
    simp only [Memory.putAll, ih, Memory.get_put, List.length_cons]
    by_cases hy : y = a
    · subst hy; simp
    · by_cases hr : a + 1 ≤ y ∧ y < a + 1 + r.length
      · rw [if_pos hr, if_pos (by omega), show y - a = (y - (a + 1)) + 1 by omega,
          List.getElem?_cons_succ]
      · rw [if_neg hr, if_neg hy, if_neg (by omega)]

/-- Reading one byte after a window write of a run of bytes. -/
theorem Memory.get_putBelow (size : Nat) (d : List Byte) (m : Memory) (a y : Nat) :
    Memory.get (Memory.putBelow size m a d) y
      = if a ≤ y ∧ y < a + d.length ∧ y < size then d[y - a]? else Memory.get m y := by
  induction d generalizing m a with
  | nil => simp [Memory.putBelow]; omega
  | cons b r ih =>
    simp only [Memory.putBelow, ih, List.length_cons]
    by_cases hr : a + 1 ≤ y ∧ y < a + 1 + r.length ∧ y < size
    · rw [if_pos hr, if_pos (by omega), show y - a = (y - (a + 1)) + 1 by omega,
        List.getElem?_cons_succ]
    · rw [if_neg hr]
      by_cases hs : a < size
      · rw [if_pos hs, Memory.get_put]
        by_cases hy : y = a
        · subst hy; simp [hs]
        · rw [if_neg hy, if_neg (by omega)]
      · rw [if_neg hs, if_neg (by omega)]

/-- Reading one byte after a write that a reset fell into: the new byte where the draw keeps it. -/
theorem Memory.get_putDrawn (keep : Nat → Bool) (d : List Byte) (m : Memory) (a k y : Nat) :
    Memory.get (Memory.putDrawn m a keep k d) y
      = if a + k ≤ y ∧ y < a + k + d.length ∧ keep (y - a) = true then d[y - (a + k)]?
        else Memory.get m y := by
  induction d generalizing m k with
  | nil => simp [Memory.putDrawn]; omega
  | cons b r ih =>
    simp only [Memory.putDrawn, ih, List.length_cons]
    by_cases hr : a + (k + 1) ≤ y ∧ y < a + (k + 1) + r.length ∧ keep (y - a) = true
    · rw [if_pos hr, if_pos ⟨by omega, by omega, hr.2.2⟩,
        show y - (a + k) = (y - (a + (k + 1))) + 1 by omega, List.getElem?_cons_succ]
    · rw [if_neg hr]
      by_cases hy : y = a + k
      · subst hy
        by_cases hk : keep k = true
        · simp [hk, Memory.get_put]
        · simp [hk]
      · have : Memory.get (if keep k then Memory.put m (a + k) b else m) y = Memory.get m y := by
          split <;> simp [Memory.get_put, hy]
        rw [this, if_neg]
        rintro ⟨h1, h2, h3⟩
        exact hr ⟨by omega, by omega, h3⟩

/-- An address that the canonical form leaves out holds nothing. -/
theorem Memory.get_of_within {lo hi : Nat} {m : Memory} (h : Memory.within lo hi m = true) {y : Nat}
    (hy : y < lo ∨ hi ≤ y) : Memory.get m y = none := by
  induction m generalizing lo with
  | nil => rfl
  | cons c r ih =>
    obtain ⟨a, b⟩ := c
    simp only [Memory.within, Bool.and_eq_true, decide_eq_true_eq] at h
    rw [Memory.get, if_neg (by omega)]
    exact ih h.2 (by omega)

/-- Listing a byte keeps the canonical form. -/
theorem Memory.within_put {lo hi : Nat} {m : Memory} (h : Memory.within lo hi m = true) {x : Nat}
    (h1 : lo ≤ x) (h2 : x < hi) (v : Byte) : Memory.within lo hi (Memory.put m x v) = true := by
  induction m generalizing lo with
  | nil => simp [Memory.put, Memory.within, h1, h2]
  | cons c r ih =>
    obtain ⟨a, b⟩ := c
    simp only [Memory.within, Bool.and_eq_true, decide_eq_true_eq] at h
    simp only [Memory.put]
    split
    · simp only [Memory.within, Bool.and_eq_true, decide_eq_true_eq]
      exact ⟨⟨h1, h2⟩, ⟨⟨by omega, h.1.2⟩, h.2⟩⟩
    · split
      · simpa [Memory.within, Bool.and_eq_true] using h
      · simp only [Memory.within, Bool.and_eq_true, decide_eq_true_eq]
        exact ⟨h.1, ih h.2 (by omega)⟩

/-- `put` keeps the canonical form of a PBUF of `n` bytes. -/
theorem Memory.wf_put {n : Nat} {m : Memory} (h : Memory.wf n m = true) {x : Nat} (hx : x < n)
    (v : Byte) : Memory.wf n (Memory.put m x v) = true :=
  Memory.within_put h (Nat.zero_le x) hx v

/-- `putAll` keeps it. -/
theorem Memory.wf_putAll {n : Nat} (d : List Byte) {m : Memory} (h : Memory.wf n m = true) {a : Nat}
    (ha : a + d.length ≤ n) : Memory.wf n (Memory.putAll m a d) = true := by
  induction d generalizing m a with
  | nil => exact h
  | cons b r ih =>
    rw [List.length_cons] at ha
    exact ih (Memory.wf_put h (by omega) b) (by omega)

/-- `putBelow` keeps it. -/
theorem Memory.wf_putBelow {n : Nat} (d : List Byte) {m : Memory} (h : Memory.wf n m = true) (a : Nat) :
    Memory.wf n (Memory.putBelow n m a d) = true := by
  induction d generalizing m a with
  | nil => exact h
  | cons b r ih =>
    refine ih ?_ (a + 1)
    split
    · next hlt => exact Memory.wf_put h hlt b
    · exact h

/-- `putDrawn` keeps it. -/
theorem Memory.wf_putDrawn {n : Nat} (keep : Nat → Bool) (d : List Byte) {m : Memory}
    (h : Memory.wf n m = true) {a k : Nat} (ha : a + k + d.length ≤ n) :
    Memory.wf n (Memory.putDrawn m a keep k d) = true := by
  induction d generalizing m k with
  | nil => exact h
  | cons b r ih =>
    rw [List.length_cons] at ha
    refine ih ?_ (by omega)
    split
    · exact Memory.wf_put h (by omega) b
    · exact h

/-- Equal memories are equal data: two canonical lists that hold the same bytes are the same. -/
theorem Memory.ext_of_within {lo hi : Nat} {m m' : Memory} (h : Memory.within lo hi m = true)
    (h' : Memory.within lo hi m' = true) (he : ∀ y, Memory.get m y = Memory.get m' y) : m = m' := by
  induction m generalizing lo m' with
  | nil =>
    cases m' with
    | nil => rfl
    | cons c r => have := he c.1; simp [Memory.get] at this
  | cons c r ih =>
    obtain ⟨a, b⟩ := c
    cases m' with
    | nil => have := he a; simp [Memory.get] at this
    | cons c' r' =>
      obtain ⟨a', b'⟩ := c'
      simp only [Memory.within, Bool.and_eq_true, decide_eq_true_eq] at h h'
      have haa : a = a' := by
        rcases Nat.lt_trichotomy a a' with hlt | heq | hgt
        · have h1 := he a
          rw [Memory.get, if_pos rfl, Memory.get, if_neg (by omega),
            Memory.get_of_within h'.2 (by omega)] at h1
          cases h1
        · exact heq
        · have h1 := he a'
          rw [Memory.get, if_neg (by omega), Memory.get_of_within h.2 (by omega), Memory.get,
            if_pos rfl] at h1
          cases h1
      subst haa
      have hb : b = b' := by simpa [Memory.get] using he a
      subst hb
      congr 1
      refine ih h.2 h'.2 fun y => ?_
      by_cases hy : y = a
      · subst hy
        rw [Memory.get_of_within h.2 (by omega), Memory.get_of_within h'.2 (by omega)]
      · simpa [Memory.get, hy] using he y

end Sys2Proof.Machine
end

