-- ==== Sys2Proof/Laws/Ops.lean ====
section
/-!
SUPPORT. One lemma per shared operation: all it can do.
-/
namespace Sys2Proof.Machine

@[simp] theorem State.pbufBytes_length (s : State) (a n : Nat) : (s.pbufBytes a n).length = n := by
  simp [State.pbufBytes]

/-- Byte `i` of a run read from PBUF. -/
theorem State.pbufBytes_getD (s : State) (a n i : Nat) (hi : i < n) (x : Byte) :
    (s.pbufBytes a n).getD i x = s.pbufByte (a + i) := by
  simp [State.pbufBytes, List.getD_eq_getElem?_getD, hi]

/-- Reading PBUF after a run of bytes was written. -/
theorem State.pbufByte_putAll (s : State) (a : Nat) (d : List Byte) (y : Nat) :
    (s.setPbuf (Memory.putAll s.pbuf a d)).pbufByte y
      = if a ≤ y ∧ y < a + d.length then d.getD (y - a) 0#8 else s.pbufByte y := by
  simp only [State.pbufByte, State.setPbuf_pbuf, Memory.get_putAll]
  split
  · next h =>
    have hlt : y - a < d.length := by omega
    simp [List.getD_eq_getElem?_getD, hlt]
  · rfl

theorem State.memRead_of_le {s : State} {a n : Nat} (h : a + n ≤ s.cfg.bufSize) :
    s.memRead a n = some (s.pbufBytes a n) := by rw [State.memRead, if_pos h]

theorem State.memWrite_of_le {s : State} {a : Nat} {d : List Byte}
    (h : a + d.length ≤ s.cfg.bufSize) :
    s.memWrite a d = some (s.setPbuf (Memory.putAll s.pbuf a d)) := by rw [State.memWrite, if_pos h]

/-- A range in PBUF goes on. -/
theorem withRange_of_le {s : State} {a n : Nat} (h : a + n ≤ s.cfg.bufSize) (k : Result) :
    withRange s a n k = k := by rw [withRange, if_neg (by omega)]

/-- A range that does not fit raises BOUNDS. -/
theorem withRange_of_lt {s : State} {a n : Nat} (h : s.cfg.bufSize < a + n) (k : Result) :
    withRange s a n k = .next (s.raise .bounds) := by rw [withRange, if_pos h]

theorem withBytes_of_le {s : State} {a n : Nat} (h : a + n ≤ s.cfg.bufSize) (k : List Byte → Result) :
    withBytes s a n k = k (s.pbufBytes a n) := by rw [withBytes, State.memRead_of_le h]

theorem withWritten_of_le {s : State} {a : Nat} {d : List Byte} (h : a + d.length ≤ s.cfg.bufSize)
    (k : State → Result) :
    withWritten s a d k = k (s.setPbuf (Memory.putAll s.pbuf a d)) := by
  rw [withWritten, State.memWrite_of_le h]

/-- All the datagram commands' shared part can do, in the order of the checks. -/
theorem withDatagram_cases (s : State) (k : List Byte → Result) :
    withDatagram s k =
      if s.cfg.bufSize < s.regs.offNat + s.regs.lenNat then .next (s.raise .bounds)
      else if s.regs.lenNat < 28 then .next (s.raise .decodeError)
      else k (s.pbufBytes s.regs.offNat s.regs.lenNat) := by
  unfold withDatagram
  by_cases h : s.cfg.bufSize < s.regs.offNat + s.regs.lenNat
  · rw [if_pos h, withRange_of_lt h]
  · rw [if_neg h, withRange_of_le (by omega), withBytes_of_le (by omega)]

/-! ### Lengths -/

@[simp] theorem splitBytes_length {w : Nat} (n : Nat) (v : BitVec w) : (splitBytes n v).length = n := by
  induction n generalizing v with
  | zero => rfl
  | succ n ih => simp [splitBytes, ih]

@[simp] theorem orderBytes_length (h : ByteOrder) (s : List Byte) :
    (orderBytes h s).length = s.length := by cases h <;> simp [orderBytes]

@[simp] theorem put16_length (h : ByteOrder) (v : Half) : (put16 h v).length = 2 := by simp [put16]

@[simp] theorem put64_length (h : ByteOrder) (v : DWord) : (put64 h v).length = 8 := by simp [put64]

@[simp] theorem packetTail_length (h : ByteOrder) (id sq : Half) (ts : DWord) :
    (packetTail h id sq ts).length = 12 := by simp [packetTail]

/-- The encoded request is exactly 16 bytes (spec/30_encoding.md R62). -/
@[simp] theorem requestPacket_length (h : ByteOrder) (p : Policy) (id sq : Half) (ts : DWord) :
    (requestPacket h p id sq ts).length = 16 := by simp [requestPacket]

@[simp] theorem Regs.packet_length (r : Regs) : r.packet.length = 16 := by simp [Regs.packet]

/-! ### The RX registers -/

/-- What loading a datagram leaves as it was. -/
theorem loadRx_frame (s : State) (d : List Byte) :
    (loadRx s d).cfg = s.cfg ∧ (loadRx s d).pbuf = s.pbuf ∧ (loadRx s d).rst = s.rst
      ∧ (loadRx s d).rdata = s.rdata ∧ (loadRx s d).inbox = s.inbox
      ∧ (loadRx s d).draws = s.draws := by
  unfold loadRx loadTimestamp loadHeader
  split <;> simp

/-- The registers after loading a datagram. -/
theorem loadRx_regs (s : State) (d : List Byte) :
    (loadRx s d).regs =
      if 36 ≤ d.length then
        { s.regs with
          rxhdr0 := header0 s.regs.horder d
          rxhdr1 := header1 s.regs.horder d
          rxtsLo := (get64 s.regs.horder (slice d 28 36)).extractLsb' 0 32
          rxtsHi := (get64 s.regs.horder (slice d 28 36)).extractLsb' 32 32 }
      else
        { s.regs with
          rxhdr0 := header0 s.regs.horder d
          rxhdr1 := header1 s.regs.horder d } := by
  unfold loadRx loadTimestamp loadHeader hasTimestamp
  by_cases h : 36 ≤ d.length
  · rw [if_pos (by simpa using h), if_pos h]; rfl
  · rw [if_neg (by simpa using h), if_neg h]; rfl

end Sys2Proof.Machine
end

