-- ==== Sys2Proof/Laws/Bus.lean ====
section
/-!
SUPPORT. What a host access addresses.
-/
namespace Sys2Proof.Machine

/-- Every register stands at its offset of spec/10_state.md R15. -/
@[simp] theorem regTarget_offset (r : RegName) : regTarget r.offset = .reg r := by cases r <;> rfl

theorem mem_of_lookup {α : Type} (o : Nat) (x : α) (l : List (Nat × α)) (h : l.lookup o = some x) :
    (o, x) ∈ l := by
  induction l with
  | nil => cases h
  | cons c r ih =>
    rw [List.lookup_cons] at h
    split at h
    · next hc => cases h; simp [eq_of_beq hc]
    · exact List.mem_cons_of_mem _ (ih h)

/-- A register is found at its own offset only. -/
theorem regTarget_eq_reg {o : Nat} {r : RegName} (h : regTarget o = .reg r) : o = r.offset := by
  unfold regTarget at h
  split at h
  · next r' hr =>
    cases h
    have hm := mem_of_lookup o r regMap hr
    simp only [regMap, List.mem_cons, Prod.mk.injEq, List.not_mem_nil, or_false] at hm
    rcases hm with h | h | h | h | h | h | h | h | h | h | h | h | h | h | h <;>
      (obtain ⟨rfl, rfl⟩ := h; rfl)
  · cases h

/-- The registers stand in the register block. -/
theorem RegName.offset_lt (r : RegName) : r.offset < 0x1000 := by cases r <;> decide

/-- The offset of a register is a multiple of 4. -/
theorem RegName.offset_mod (r : RegName) : r.offset % 4 = 0 := by cases r <;> decide

/-- A 32-bit access at a register's offset addresses that register. -/
theorem target_reg (d : Dir) (r : RegName) (v : Word) : target ⟨d, .w32, r.offset, v⟩ = .ok (.reg r) := by
  rw [target, if_pos r.offset_lt, if_neg (by simp), if_neg (by simp [r.offset_mod]), regTarget_offset]

/-- An aligned access in the window addresses PBUF. -/
theorem target_window {t : Transaction} (h1 : 0x1000 ≤ t.offset) (h2 : t.offset < 0x2000)
    (h3 : t.offset % t.width.bytes = 0) : target t = .ok (.window (t.offset - 0x1000)) := by
  rw [target, if_neg (by omega), if_pos h2, if_neg (by simpa using h3)]

/-- The port refuses exactly the accesses that are not well-formed (spec/20_memory.md R45). -/
theorem target_ok_iff_wf (t : Transaction) : (∃ g, target t = .ok g) ↔ t.wf = true := by
  unfold target Transaction.wf
  split
  · by_cases hw : t.width = .w32
    · by_cases ha : t.offset % 4 = 0 <;> simp [hw, ha]
    · simp [hw]
  · by_cases h2 : t.offset < 0x2000
    · by_cases ha : t.offset % t.width.bytes = 0 <;> simp [h2, ha]
    · simp [h2]

end Sys2Proof.Machine
end

