-- ==== Sys2Proof/Laws/Exec.lean ====
section
/-!
SUPPORT. One equation per meaning: all a command can answer, its checks in their order.
-/
namespace Sys2Proof.Machine

/-- The one STATUS value of a success without a datagram. -/
@[simp] theorem statusWord_none : statusWord .none false false false = 0x00000000#32 := by decide

/-- CSUM. -/
theorem execCsum_cases (s : State) :
    execCsum s =
      if s.cfg.bufSize < s.regs.offNat + s.regs.lenNat then .next (s.raise .bounds)
      else .next ((s.setResult (checksum (s.pbufBytes s.regs.offNat s.regs.lenNat))).setStatus 0x00000000#32) := by
  unfold execCsum
  by_cases h : s.cfg.bufSize < s.regs.offNat + s.regs.lenNat
  · rw [if_pos h, withRange_of_lt h]
  · rw [if_neg h, withRange_of_le (by omega), withBytes_of_le (by omega), statusWord_none]

/-- ENCODE. -/
theorem execEncode_cases (s : State) :
    execEncode s =
      if s.cfg.bufSize < s.regs.offNat + 16 then .next (s.raise .bounds)
      else .next (((s.setPbuf (Memory.putAll s.pbuf s.regs.offNat s.regs.packet)).setResult
        s.regs.slot).setStatus 0x00000000#32) := by
  unfold execEncode
  by_cases h : s.cfg.bufSize < s.regs.offNat + 16
  · rw [if_pos h, withRange_of_lt h]
  · rw [if_neg h, withRange_of_le (by omega),
      withWritten_of_le (by rw [Regs.packet_length]; omega), statusWord_none]

/-- PARSE. -/
theorem execParse_cases (s : State) :
    execParse s =
      if s.cfg.bufSize < s.regs.offNat + s.regs.lenNat then .next (s.raise .bounds)
      else if s.regs.lenNat < 28 then .next (s.raise .decodeError)
      else .next ((loadRx s (s.pbufBytes s.regs.offNat s.regs.lenNat)).setStatus
        (statusWord .none true (decide (36 ≤ s.regs.lenNat)) false)) := by
  rw [execParse, withDatagram_cases]
  simp only [hasTimestamp, State.pbufBytes_length]

/-- MATCH. -/
theorem execMatch_cases (s : State) :
    execMatch s =
      if s.cfg.bufSize < s.regs.offNat + s.regs.lenNat then .next (s.raise .bounds)
      else if s.regs.lenNat < 28 then .next (s.raise .decodeError)
      else .next ((loadRx s (s.pbufBytes s.regs.offNat s.regs.lenNat)).setStatus
        (matchStatus (isMatch s.regs (s.pbufBytes s.regs.offNat s.regs.lenNat))
          (decide (36 ≤ s.regs.lenNat)))) := by
  rw [execMatch, withDatagram_cases]
  simp only [hasTimestamp, State.pbufBytes_length]

end Sys2Proof.Machine
end

