-- ==== Sys2Proof/Laws/HostProgram.lean ====
section
/-!
SUPPORT. The tuple of a served transaction field by field, and the encoding of a program access by
access.
-/
namespace Sys2Proof.Machine

@[simp] theorem Transaction.completed_dir (t : Transaction) (u : State) :
    (t.completed u).dir = t.dir := by
  unfold completed; split <;> rfl

@[simp] theorem Transaction.completed_width (t : Transaction) (u : State) :
    (t.completed u).width = t.width := by
  unfold completed; split <;> rfl

@[simp] theorem Transaction.completed_offset (t : Transaction) (u : State) :
    (t.completed u).offset = t.offset := by
  unfold completed; split <;> rfl

theorem Transaction.completed_of_write {t : Transaction} (h : t.dir = .write) (u : State) :
    t.completed u = t := by
  simp [completed, h]

theorem Transaction.completed_data_of_read {t : Transaction} (h : t.dir = .read) (u : State) :
    (t.completed u).data = u.rdata.getD 0#32 := by
  simp [completed, h]

@[simp] theorem programEncoding_nil (s : State) : programEncoding [] s = some [] := rfl

/-- The encoding of a program does not depend on what was pending before it. -/
theorem programEncoding_inbox (p : List Transaction) (s : State) (es : List Event) :
    programEncoding p { s with inbox := es } = programEncoding p s := by
  cases p <;> rfl

/-- An access that is served adds its tuple in front of the tuples of the rest. -/
theorem programEncoding_of_next {t : Transaction} {rest : List Transaction} {s u : State}
    (h : step { s with inbox := (t :: rest).map Event.access } = .next u) :
    programEncoding (t :: rest) s =
      (programEncoding rest u).map fun tuples => t.completed u :: tuples := by
  rw [step] at h
  rw [programEncoding, h]

end Sys2Proof.Machine
end

