-- ==== Sys2Proof/Laws/PerInstr.lean ====
section
/-!
SUPPORT. The family ReservedZero: the command word of every command has its reserved field zero and
its OP in the table's range (spec/30_encoding.md R57, R58).
-/
namespace Sys2Proof.Laws.ReservedZero

/-- The word of a well-formed command has RSV zero and OP at most 4. -/
def Statement (i : Instr) : Prop :=
  i.wf = true → rsvField (encode i) = 0#28 ∧ (opField (encode i)).toNat ≤ 4

theorem nop : Statement .nop := fun _ => by decide
theorem csum : Statement .csum := fun _ => by decide
theorem encode : Statement .encode := fun _ => by decide
theorem parse : Statement .parse := fun _ => by decide
theorem matchReply : Statement .matchReply := fun _ => by decide

end Sys2Proof.Laws.ReservedZero
end

