-- ==== Sys2Proof/Laws/Step.lean ====
section
/-!
SUPPORT. Inversion: all that a host access, and a step, can do.
-/
namespace Sys2Proof.Machine

/-- What an accepted access addresses, in terms of its offset. -/
theorem target_cases {t : Transaction} {g : Target} (h : target t = .ok g) :
    (∃ r : RegName, g = .reg r ∧ t.offset = r.offset) ∨
    (g = .unmapped ∧ t.offset < 0x1000 ∧ regTarget t.offset = .unmapped) ∨
    (g = .window (t.offset - 0x1000) ∧ 0x1000 ≤ t.offset ∧ t.offset < 0x2000) := by
  unfold target at h
  split at h
  · next hlt =>
    split at h
    · cases h
    · split at h
      · cases h
      · injection h with h
        cases hg : regTarget t.offset with
        | reg r => exact .inl ⟨r, by rw [← h, hg], regTarget_eq_reg hg⟩
        | unmapped => exact .inr (.inl ⟨by rw [← h, hg], hlt, hg ▸ rfl⟩)
        | window a => unfold regTarget at hg; split at hg <;> cases hg
  · split at h
    · next hlo hhi =>
      split at h
      · cases h
      · injection h with h
        exact .inr (.inr ⟨h.symm, Nat.le_of_not_lt hlo, hhi⟩)
    · cases h

/-- All a host access can answer. -/
theorem serveAccess_inversion (t : Transaction) (s : State) :
    (t.wf = false ∧ ∃ r, serveAccess t s = .refused r) ∨
    (t.wf = true ∧ t.dir = .read ∧ ∃ v, serveAccess t s = .next (s.setRdata v)) ∨
    (t.wf = true ∧ t.dir = .write ∧ t.offset < 0x1000 ∧ serveAccess t s = .next s) ∨
    (t.wf = true ∧ t.dir = .write ∧ s.rst = false ∧ t.offset = 0x01C ∧
      serveAccess t s = runCmd t.data s) ∨
    (t.wf = true ∧ t.dir = .write ∧ s.rst = false ∧ ∃ r : RegName, r ≠ .cmd ∧
      t.offset = r.offset ∧
      serveAccess t s = .next { s with regs := Regs.hostWrite s.regs t.data r }) ∨
    (t.wf = true ∧ t.dir = .write ∧ 0x1000 ≤ t.offset ∧ t.offset < 0x2000 ∧
      serveAccess t s = .next (s.windowWrite (t.offset - 0x1000) t.width.bytes t.data)) := by
  have hok := target_ok_iff_wf t
  unfold serveAccess
  cases ht : target t with
  | error r =>
    refine .inl ⟨?_, r, rfl⟩
    rw [ht] at hok
    simpa using hok
  | ok g =>
    have hwf : t.wf = true := hok.1 ⟨g, ht⟩
    cases hd : t.dir with
    | read => cases g <;> exact .inr (.inl ⟨hwf, rfl, _, rfl⟩)
    | write =>
      rcases target_cases ht with ⟨r, rfl, ho⟩ | ⟨rfl, hlt, -⟩ | ⟨rfl, hlo, hhi⟩
      · simp only [State.regWrite]
        cases hr : s.rst with
        | true => exact .inr (.inr (.inl ⟨hwf, trivial, ho ▸ r.offset_lt, rfl⟩))
        | false =>
          by_cases hc : r = .cmd
          · subst hc
            exact .inr (.inr (.inr (.inl ⟨hwf, trivial, rfl, ho, by simp⟩)))
          · refine .inr (.inr (.inr (.inr (.inl ⟨hwf, trivial, rfl, r, hc, ho, ?_⟩))))
            simp [hc]
      · exact .inr (.inr (.inl ⟨hwf, rfl, hlt, rfl⟩))
      · exact .inr (.inr (.inr (.inr (.inr ⟨hwf, rfl, hlo, hhi, rfl⟩))))

/-- A step with an event pending serves it. -/
theorem step_of_cons {s : State} {e : Event} {rest : List Event} (h : s.inbox = e :: rest) :
    step s = serve e (s.accept rest) := by
  simp only [step, serveNext, h]

/-- All a step that answers a next state can have done. -/
theorem step_inversion {s t : State} (h : step s = .next t) :
    (s.inbox = [] ∧ t = s) ∨
    ∃ e rest, s.inbox = e :: rest ∧
      ((∃ a, e = .access a ∧ serveAccess a (s.accept rest) = .next t) ∨
       (∃ d w x v, e = .busAccess d w x v ∧ s.cfg.base ≤ x ∧
          serveAccess ⟨d, w, x - s.cfg.base, v⟩ (s.accept rest) = .next t) ∨
       (e = .rst true ∧ t = (s.accept rest).assertReset) ∨
       (e = .rst false ∧ t = (s.accept rest).releaseReset) ∨
       (∃ w, e = .rstDuringCmd w ∧ t = (s.accept rest).resetDuringCmd w)) := by
  cases hi : s.inbox with
  | nil =>
    simp only [step, serveNext, hi] at h
    cases h
    exact .inl ⟨rfl, rfl⟩
  | cons e rest =>
    refine .inr ⟨e, rest, rfl, ?_⟩
    rw [step_of_cons hi] at h
    cases e with
    | access a => exact .inl ⟨a, rfl, h⟩
    | busAccess d w x v =>
      simp only [serve] at h
      by_cases hx : x < (s.accept rest).cfg.base
      · rw [if_pos hx] at h
        cases h
      · rw [if_neg hx] at h
        exact .inr (.inl ⟨d, w, x, v, rfl, Nat.le_of_not_lt hx, h⟩)
    | rst level =>
      cases level <;> cases h
      · exact .inr (.inr (.inr (.inl ⟨rfl, rfl⟩)))
      · exact .inr (.inr (.inl ⟨rfl, rfl⟩))
    | rstDuringCmd w =>
      cases h
      exact .inr (.inr (.inr (.inr ⟨w, rfl, rfl⟩)))

end Sys2Proof.Machine
end

