-- ==== Sys2Proof/Tests/Slice0.lean ====
section
/-!
SUPPORT. Tests on fixed values, each expected result taken from spec/95_test_vectors.md or from the
rule it names, and a witness for the hypotheses of every statement that has some.
-/
namespace Sys2Proof.Tests

open Sys2Proof.Machine Sys2Proof.Claims

/-! ### Small states -/

/-- The IPv4 header filler IPH of spec/95_test_vectors.md. -/
def iph : List Byte :=
  [0x45#8, 0x00#8, 0x00#8, 0x24#8, 0x00#8, 0x00#8, 0x00#8, 0x00#8, 0x40#8, 0x01#8, 0x00#8, 0x00#8,
   0xC0#8, 0x00#8, 0x02#8, 0x01#8, 0xC0#8, 0x00#8, 0x02#8, 0x02#8]

/-- Bytes 4 to 15 that REQ and REP share. -/
def tail : List Byte :=
  [0x34#8, 0x12#8, 0x01#8, 0x00#8, 0x00#8, 0x00#8, 0x00#8, 0x00#8, 0x00#8, 0x00#8, 0xF0#8, 0x3F#8]

/-- REQ: the packet of V-EN1. -/
def req : List Byte := [0x08#8, 0x00#8, 0xD2#8, 0xAD#8] ++ tail

/-- REP: the reply to REQ. -/
def rep : List Byte := [0x00#8, 0x00#8, 0xDA#8, 0xAD#8] ++ tail

/-- The first 16 bytes of REP with another identifier, FGN. -/
def fgn : List Byte :=
  [0x00#8, 0x00#8, 0xD9#8, 0xAD#8, 0x35#8, 0x12#8] ++ tail.drop 2

/-- The operands of V-EN1 with these CTRL, OFF and LEN. -/
def ops (ctrl off len : Word) : Regs :=
  { Regs.reset with ctrl := ctrl, ident := 0x00001234#32, txtsHi := 0x3FF00000#32, off := off, len := len }

/-- A state with these registers and PBUF bytes from `a` on. -/
def st (r : Regs) (a : Nat) (d : List Byte) : State :=
  { State.reset with regs := r, pbuf := Memory.putAll [] a d }

/-- The state with these events pending. -/
def pend (s : State) (es : List Event) : State := { s with inbox := es }

/-- A host write of a word to CMD. -/
def cmdEvent (w : Word) : Event := .access ⟨.write, .w32, 0x01C, w⟩

/-- A 32-bit write. -/
def wrEvent (o : Nat) (v : Word) : Event := .access ⟨.write, .w32, o, v⟩

/-- A 32-bit read. -/
def rdEvent (o : Nat) : Event := .access ⟨.read, .w32, o, 0#32⟩

/-- The state after an answer; the reset state if there is none. -/
def out (r : Result) : State := (nextState r).getD State.reset

/-- The reply datagram of V-MA1 with LEN = `n`. -/
def replyState (ctrl len : Word) : State := st (ops ctrl 0#32 len) 0 (iph ++ rep)

/-! ### Well-formedness -/

theorem test_params_too_small : (Params.mk 35 0).wf = false := by decide
theorem test_params_too_large : (Params.mk 4097 0).wf = false := by decide
theorem test_params_bounds : (Params.mk 36 0).wf = true ∧ (Params.mk 4096 7).wf = true := by decide
theorem test_access_register_width : (Transaction.mk .read .w16 0x020 0#32).wf = false := by decide
theorem test_access_register_misaligned :
    (Transaction.mk .read .w32 0x022 0#32).wf = false := by decide
theorem test_access_window_misaligned :
    (Transaction.mk .write .w32 0x1002 0#32).wf = false := by decide
theorem test_access_too_high : (Transaction.mk .read .w8 0x2000 0#32).wf = false := by decide
theorem test_access_wf :
    (Transaction.mk .read .w32 0x038 0#32).wf = true ∧
      (Transaction.mk .write .w16 0x13FE 0#32).wf = true ∧
      (Transaction.mk .write .w8 0x1FFF 0#32).wf = true := by decide
theorem test_commands_wf : ∀ i ∈ [Instr.nop, .csum, .encode, .parse, .matchReply], i.wf = true := by
  decide
theorem test_memory_unsorted_refused : Memory.wf 1024 [(4, 1#8), (3, 2#8)] = false := by decide
theorem test_memory_repeat_refused : Memory.wf 1024 [(4, 1#8), (4, 2#8)] = false := by decide
theorem test_memory_beyond_refused : Memory.wf 1024 [(1024, 1#8)] = false := by decide

/-! ### Decoding: words written bit by bit from spec/30_encoding.md R57, R58, R59 -/

theorem test_decode_nop : decode 0b00000000000000000000000000000000#32 = .cmd .nop := by decide
theorem test_decode_csum : decode 0b00000000000000000000000000000001#32 = .cmd .csum := by decide
theorem test_decode_encode : decode 0b00000000000000000000000000000010#32 = .cmd .encode := by decide
theorem test_decode_parse : decode 0b00000000000000000000000000000011#32 = .cmd .parse := by decide
theorem test_decode_match :
    decode 0b00000000000000000000000000000100#32 = .cmd .matchReply := by decide
theorem test_decode_unused_op :
    decode 0b00000000000000000000000000000101#32 = .illegal .unusedOp ∧
      decode 0b00000000000000000000000000001111#32 = .illegal .unusedOp := by decide
theorem test_decode_reserved_bits :
    decode 0b00000000000000000000000000010001#32 = .illegal .reservedBits ∧
      decode 0b10000000000000000000000000000001#32 = .illegal .reservedBits := by decide
theorem test_decode_table_word :
    decodeTableWord 32 4 = some .matchReply ∧ decodeTableWord 32 5 = none ∧
      decodeTableWord 32 0x10 = none ∧ decodeTableWord 64 1 = none := by decide

/-! ### The checksum -/

/-- V-CS1, V-CS3, V-CS12. -/
theorem test_checksum_short :
    checksum [] = 0xFFFF#16 ∧ checksum [0x01#8] = 0xFEFF#16 ∧
      checksum [0xFF#8, 0xFF#8, 0xFF#8] = 0x00FF#16 := by decide

/-- V-CS7: two passes of the fold. -/
theorem test_checksum_two_passes :
    checksum [0xFF#8, 0xFF#8, 0xFF#8, 0xFF#8, 0x01#8, 0x00#8] = 0xFEFF#16 := by decide

/-- V-CS9: the example of RFC 1071. -/
theorem test_checksum_rfc1071 :
    checksum [0x00#8, 0x01#8, 0xF2#8, 0x03#8, 0xF4#8, 0xF5#8, 0xF6#8, 0xF7#8] = 0x220D#16 := by decide

/-! ### One command, one step -/

/-- V-DI1: NOP keeps STATUS. -/
theorem test_nop_keeps_status :
    (out (exec .nop (st { Regs.reset with status := 0x11#32 } 0 []))).regs.status = 0x11#32 := by decide

/-- V-DI4: RSV is not ignored. -/
theorem test_badcmd_is_no_csum :
    (out (step (pend State.reset [cmdEvent 0x11#32]))).regs =
      { Regs.reset with status := 3#32 } := by decide

/-- V-CS21: pairing starts at OFF. -/
theorem test_csum_odd_offset :
    (out (exec .csum (st (ops 0#32 5#32 3#32) 5 [0x12#8, 0x34#8, 0x56#8]))).regs =
      { ops 0#32 5#32 3#32 with result := 0x97CB#32 } := by decide

/-- V-CS18: BOUNDS. -/
theorem test_csum_bounds :
    (out (exec .csum (st (ops 0#32 1021#32 4#32) 0 []))).regs =
      { ops 0#32 1021#32 4#32 with status := 2#32 } := by decide

/-- V-EN1 (little-endian host) and V-EN4 (big-endian host, legacy policy). -/
theorem test_encode_both_orders :
    (out (exec .encode (st (ops 0#32 0#32 0#32) 0 []))).pbufBytes 0 16 = req ∧
      (out (exec .encode (st (ops 0#32 0#32 0#32) 0 []))).regs.result = 0xADD2#32 ∧
      (out (exec .encode (st (ops 3#32 0#32 0#32) 0 []))).pbufBytes 0 16 =
        [0x08#8, 0x00#8, 0xA5#8, 0xDA#8, 0x12#8, 0x34#8, 0x00#8, 0x01#8,
         0x3F#8, 0xF0#8, 0x00#8, 0x00#8, 0x00#8, 0x00#8, 0x00#8, 0x00#8] ∧
      (out (exec .encode (st (ops 3#32 0#32 0#32) 0 []))).regs.result = 0xA5DA#32 :=
  ⟨by decide, by decide, by decide, by decide⟩

/-- V-PA5: big-endian host. -/
theorem test_parse_big :
    (out (exec .parse (replyState 2#32 36#32))).regs =
      { ops 2#32 0#32 36#32 with
        status := 0x30#32, rxhdr0 := 0xDAAD0000#32, rxhdr1 := 0x01003412#32,
        rxtsLo := 0x0000F03F#32, rxtsHi := 0x00000000#32 } := by decide

/-- V-PA4: 35 bytes give the header only. -/
theorem test_parse_header_only :
    (out (exec .parse (replyState 0#32 35#32))).regs =
      { ops 0#32 0#32 35#32 with
        status := 0x10#32, rxhdr0 := 0xADDA0000#32, rxhdr1 := 0x00011234#32 } := by decide

/-- V-MA2: strict match. -/
theorem test_match_strict :
    (out (exec .matchReply (replyState 4#32 36#32))).regs =
      { ops 4#32 0#32 36#32 with
        status := 0x70#32, rxhdr0 := 0xADDA0000#32, rxhdr1 := 0x00011234#32,
        rxtsLo := 0#32, rxtsHi := 0x3FF00000#32 } := by decide

/-- V-MA4b, V-MA5: a strict rejection, and a match without a timestamp. -/
theorem test_match_rejects :
    (out (exec .matchReply (st (ops 4#32 0#32 36#32) 0 (iph ++ req)))).regs.status = 0x30#32 ∧
      (out (exec .matchReply (replyState 0#32 28#32))).regs.status = 0x11#32 := by decide

/-! ### Host accesses -/

/-- V-HA2, V-HA3: little-endian lanes. -/
theorem test_window_lanes :
    (st Regs.reset 0 [1#8, 2#8, 3#8, 4#8]).windowRead 2 2 = 0x0403#32 ∧
      (st Regs.reset 0 [1#8, 2#8, 3#8, 4#8]).windowRead 3 1 = 0x04#32 := by decide

/-- V-HA5: beyond BUF_SIZE. -/
theorem test_window_beyond_bufsize :
    out (step (pend State.reset [.access (wr8 (pbufOffset 0x400) 0x55#8)])) = State.reset ∧
      (out (step (pend State.reset [.access (rd8 (pbufOffset 0x400))]))).rdata = some 0#32 := by decide

/-- V-HA10, V-HA11. -/
theorem test_write_masks :
    (out (step (pend State.reset [wrEvent 0x000 0xFFFFFFFF#32]))).regs.ctrl = 7#32 ∧
      (out (step (pend State.reset [wrEvent 0x014 0x12345678#32]))).regs.off = 0x5678#32 := by decide

/-- V-HA6, V-HA12. -/
theorem test_reads_after_reset :
    (out (step (pend State.reset [rdEvent 0x038]))).rdata = some 0x400#32 ∧
      (out (step (pend State.reset [rdEvent 0x008]))).rdata = some 1#32 := by decide

/-- P1: `rd32 RESULT` encodes as (R,32,0x024,0x0000ADD2), the read result in the tuple. -/
theorem test_read_tuple :
    programEncoding [rd32 0x024] (st { Regs.reset with result := 0xADD2#32 } 0 []) =
      some [⟨.read, .w32, 0x024, 0x0000ADD2#32⟩] := by decide

/-- V-HA13. -/
theorem test_refused_accesses :
    step (pend State.reset [.access (rd16 0x020)]) = .refused (.registerWidth 0x020) ∧
      step (pend State.reset [.access (wr32 (pbufOffset 2) 0#32)]) =
        .refused (.windowMisaligned 0x1002) := ⟨rfl, rfl⟩

/-- The word the host places is the first command after reset; the slot value is worked out from
R90: SEQ = 1 is the only operand that is not zero. -/
theorem test_placed_encode_after_reset :
    (out (step (State.reset.withFetchWord 32 2))).regs = { Regs.reset with result := 0xFFF6#32 } := by
  decide

/-! ### Witnesses: the hypotheses of every statement are met, each clause at a boundary -/

/-- A reply of a foreign identifier. -/
def foreignState (ctrl len : Word) : State := st (ops ctrl 0#32 len) 0 (iph ++ fgn)

/-- The state of V-EN1. -/
def encState (off : Word) : State := st (ops 0#32 off 0#32) 0 []

theorem witness_PowerUpAndResetLeaveResetValues :
    (Params.mk 36 0).wf = true ∧ (Params.mk 4096 0).wf = true ∧
      (pend State.reset [.rst true]).inbox = .rst true :: [] := by decide

theorem witness_LegalStateAtReset : (Params.mk 36 0).wf = true ∧ Params.standard.wf = true := by decide

theorem witness_DecodingAndEncodingAreTheCommandMap :
    Instr.matchReply.wf = true ∧ (4#32 : Word) &&& 0xFFFFFFFF#32 = matchWord .matchReply ∧
      IllegalCmd 5#32 ∧ IllegalCmd 0x10#32 ∧ ¬ IllegalCmd 4#32 ∧ ¬ IllegalCmd 0#32 := by decide

theorem witness_StepRunsTheDecodedCommand :
    (∀ w : Word, (pend State.reset [cmdEvent w, .rst true]).inbox =
        .access ⟨.write, .w32, 0x01C, w⟩ :: [.rst true] ∧
      (pend State.reset [cmdEvent w, .rst true]).rst = false) ∧
    decode 0x4#32 = .cmd .matchReply ∧ (0x10#32).extractLsb' 4 28 ≠ 0#28 ∧
    (0x80000000#32).extractLsb' 4 28 ≠ 0#28 ∧ 5 ≤ ((0x5#32).extractLsb' 0 4).toNat ∧
    5 ≤ ((0xF#32).extractLsb' 0 4).toNat :=
  ⟨fun _ => ⟨rfl, rfl⟩, by decide, by decide, by decide, by decide, by decide⟩

theorem witness_IllegalWordOnlySetsBadcmd :
    (pend State.reset [cmdEvent 5#32]).inbox = .access ⟨.write, .w32, 0x01C, 5#32⟩ :: [] ∧
      State.reset.rst = false ∧ IllegalCmd 5#32 ∧ IllegalCmd 0xF#32 ∧ IllegalCmd 0x10#32 ∧
      IllegalCmd 0x80000001#32 := by decide

theorem witness_IdleBlockKeepsItsState : State.reset.inbox = [] := rfl

theorem witness_PlacedWordRunsNext :
    decodeTableWord 32 4 = some .matchReply ∧ decodeTableWord 0 0 = some .nop := by decide

theorem witness_CsumWritesTheChecksumOfItsRange :
    InRange (st (ops 0#32 1020#32 4#32) 0 []) 4 ∧ InRange (st (ops 0#32 1024#32 0#32) 0 []) 0 ∧
      lenOf (st (ops 0#32 1020#32 4#32) 0 []) = 4 ∧
      (st (ops 0#32 1021#32 4#32) 0 []).cfg.bufSize <
        offOf (st (ops 0#32 1021#32 4#32) 0 []) + lenOf (st (ops 0#32 1021#32 4#32) 0 []) := by decide

theorem witness_EncodeWritesTheRequest :
    InRange (encState 1008#32) 16 ∧ 0 < offOf (encState 1008#32) ∧
      (encState 1009#32).cfg.bufSize < offOf (encState 1009#32) + 16 := by decide

theorem witness_ParseLoadsTheDatagram :
    InRange (replyState 0#32 36#32) (lenOf (replyState 0#32 36#32)) ∧
    36 ≤ lenOf (replyState 0#32 36#32) ∧
    InRange (replyState 0#32 28#32) (lenOf (replyState 0#32 28#32)) ∧
    lenOf (replyState 0#32 28#32) = 28 ∧
    InRange (replyState 0#32 35#32) (lenOf (replyState 0#32 35#32)) ∧
    lenOf (replyState 0#32 35#32) = 35 ∧
    InRange (replyState 0#32 27#32) (lenOf (replyState 0#32 27#32)) ∧
    lenOf (replyState 0#32 27#32) < 28 ∧
    (st (ops 0#32 1000#32 36#32) 0 []).cfg.bufSize <
      offOf (st (ops 0#32 1000#32 36#32) 0 []) + lenOf (st (ops 0#32 1000#32 36#32) 0 []) :=
  ⟨by decide, by decide, by decide, by decide, by decide, by decide, by decide, by decide, by decide⟩

theorem witness_MatchDecidesTheReply_matches :
    InRange (replyState 0#32 36#32) (lenOf (replyState 0#32 36#32)) ∧
    36 ≤ lenOf (replyState 0#32 36#32) ∧ Matches (replyState 0#32 36#32) ∧
    Matches (replyState 4#32 36#32) ∧
    lenOf (replyState 0#32 28#32) = 28 ∧ Matches (replyState 0#32 28#32) ∧
    lenOf (replyState 0#32 35#32) = 35 ∧ Matches (replyState 0#32 35#32) ∧
    InRange (replyState 0#32 35#32) (lenOf (replyState 0#32 35#32)) :=
  ⟨by decide, by decide, by decide, by decide, by decide, by decide, by decide, by decide, by decide⟩

theorem witness_MatchDecidesTheReply_rejects :
    InRange (foreignState 4#32 36#32) (lenOf (foreignState 4#32 36#32)) ∧
    36 ≤ lenOf (foreignState 4#32 36#32) ∧ ¬ Matches (foreignState 4#32 36#32) ∧
    ¬ Matches (st (ops 4#32 0#32 36#32) 0 (iph ++ req)) ∧
    lenOf (foreignState 0#32 28#32) = 28 ∧ ¬ Matches (foreignState 0#32 28#32) ∧
    lenOf (foreignState 0#32 35#32) = 35 ∧ ¬ Matches (foreignState 0#32 35#32) ∧
    InRange (foreignState 0#32 35#32) (lenOf (foreignState 0#32 35#32)) ∧
    InRange (foreignState 0#32 27#32) (lenOf (foreignState 0#32 27#32)) ∧
    lenOf (foreignState 0#32 27#32) < 28 ∧
    (st (ops 0#32 1020#32 36#32) 0 []).cfg.bufSize <
      offOf (st (ops 0#32 1020#32 36#32) 0 []) + lenOf (st (ops 0#32 1020#32 36#32) 0 []) :=
  ⟨by decide, by decide, by decide, by decide, by decide, by decide, by decide, by decide,
    by decide, by decide, by decide, by decide⟩

theorem witness_BoundsExactlyWhenTheRangeDoesNotFit :
    rangeLen (encState 1009#32) .encode = some 16 ∧
      exec .encode (encState 1009#32) = .next (out (exec .encode (encState 1009#32))) ∧
      (encState 1009#32).cfg.bufSize < offOf (encState 1009#32) + 16 ∧
      rangeLen (replyState 0#32 36#32) .csum = some 36 ∧
      exec .csum (replyState 0#32 36#32) = .next (out (exec .csum (replyState 0#32 36#32))) :=
  ⟨rfl, rfl, by decide, rfl, rfl⟩

theorem witness_FirstErrorInOrderIsReported :
    (step (pend State.reset [cmdEvent 0x11#32]) =
        .next (out (step (pend State.reset [cmdEvent 0x11#32]))) ∧ IllegalCmd 0x11#32) ∧
    (exec .parse (st (ops 0#32 1020#32 27#32) 0 []) =
        .next (out (exec .parse (st (ops 0#32 1020#32 27#32) 0 []))) ∧
      rangeLen (st (ops 0#32 1020#32 27#32) 0 []) .parse = some 27 ∧
      (st (ops 0#32 1020#32 27#32) 0 []).cfg.bufSize < offOf (st (ops 0#32 1020#32 27#32) 0 []) + 27) ∧
    (exec .matchReply (replyState 0#32 27#32) = .next (out (exec .matchReply (replyState 0#32 27#32))) ∧
      InRange (replyState 0#32 27#32) 27 ∧ lenOf (replyState 0#32 27#32) < 28) ∧
    (exec .matchReply (replyState 0#32 28#32) = .next (out (exec .matchReply (replyState 0#32 28#32))) ∧
      InRange (replyState 0#32 28#32) 28 ∧ 28 ≤ lenOf (replyState 0#32 28#32)) ∧
    (exec .parse (replyState 0#32 28#32) = .next (out (exec .parse (replyState 0#32 28#32)))) :=
  ⟨⟨rfl, by decide⟩, ⟨rfl, rfl, by decide⟩, ⟨rfl, by decide, by decide⟩,
    ⟨rfl, by decide, by decide⟩, rfl⟩

/-- The hypothesis of the frame statements that ask only for a next state. -/
theorem witness_CommandsKeepOperandsAndPort :
    exec .matchReply (replyState 4#32 36#32) =
      .next (out (exec .matchReply (replyState 4#32 36#32))) := rfl

theorem witness_OnlyEncodeChangesPbuf :
    exec .encode (replyState 0#32 0#32) = .next (out (exec .encode (replyState 0#32 0#32))) ∧
      (out (exec .encode (replyState 0#32 0#32))).pbufByte 0 ≠ (replyState 0#32 0#32).pbufByte 0 ∧
      (out (exec .encode (replyState 0#32 0#32))).pbufByte 15 ≠ (replyState 0#32 0#32).pbufByte 15 :=
  ⟨rfl, by decide, by decide⟩

theorem witness_OnlyCsumAndEncodeWriteResult :
    exec .csum (replyState 0#32 0#32) = .next (out (exec .csum (replyState 0#32 0#32))) ∧
      (out (exec .csum (replyState 0#32 0#32))).regs.result ≠ (replyState 0#32 0#32).regs.result ∧
      (out (exec .csum (replyState 0#32 0#32))).regs.status = 0#32 :=
  ⟨rfl, by decide, by decide⟩

theorem witness_OnlyDatagramCommandsWriteRx :
    exec .parse (replyState 0#32 36#32) = .next (out (exec .parse (replyState 0#32 36#32))) ∧
      (out (exec .parse (replyState 0#32 36#32))).regs.rxhdr0 ≠ (replyState 0#32 36#32).regs.rxhdr0 ∧
      (out (exec .parse (replyState 0#32 36#32))).regs.rxtsHi ≠ (replyState 0#32 36#32).regs.rxtsHi ∧
      (out (exec .parse (replyState 0#32 28#32))).regs.rxhdr1 ≠ (replyState 0#32 28#32).regs.rxhdr1 :=
  ⟨rfl, by decide, by decide, by decide⟩

theorem witness_StatusBitsSayWhatTheyMean :
    Instr.matchReply ≠ .nop ∧
      exec .matchReply (replyState 0#32 36#32) = .next (out (exec .matchReply (replyState 0#32 36#32))) ∧
      (out (exec .matchReply (replyState 0#32 36#32))).regs.status.getLsbD 6 = true :=
  ⟨by decide, rfl, by decide⟩

theorem witness_StatusTakesAListedValue :
    exec .nop State.reset = .next State.reset ∧ Instr.parse ≠ .nop ∧
      exec .parse State.reset = .next (out (exec .parse State.reset)) :=
  ⟨rfl, by decide, rfl⟩

theorem witness_ErrorsChangeStatusOnly :
    Instr.matchReply ≠ .nop ∧
      exec .matchReply (replyState 0#32 28#32) = .next (out (exec .matchReply (replyState 0#32 28#32))) ∧
      (out (exec .matchReply (replyState 0#32 28#32))).regs.status.extractLsb' 0 4 ≠ 0#4 ∧
      (out (exec .parse (replyState 0#32 27#32))).regs.status.extractLsb' 0 4 ≠ 0#4 :=
  ⟨by decide, rfl, by decide, by decide⟩

theorem witness_EveryStepKeepsTheInvariant :
    (pend (replyState 7#32 36#32) [cmdEvent 2#32]).wf = true ∧
      step (pend (replyState 7#32 36#32) [cmdEvent 2#32]) =
        .next (out (step (pend (replyState 7#32 36#32) [cmdEvent 2#32]))) ∧
      (pend State.reset.assertReset [.rst false]).wf = true :=
  ⟨by decide, rfl, by decide⟩

theorem witness_OnlyMeaninglessAccessesAreRefused :
    RefusedAccess ⟨.read, .w16, 0xFFC, 0#32⟩ ∧ RefusedAccess ⟨.write, .w32, 0xFFE, 0#32⟩ ∧
      RefusedAccess ⟨.read, .w32, 0x1FFE, 0#32⟩ ∧ RefusedAccess ⟨.read, .w8, 0x2000, 0#32⟩ ∧
      ¬ RefusedAccess ⟨.read, .w32, 0xFFC, 0#32⟩ ∧ ¬ RefusedAccess ⟨.read, .w8, 0x1FFF, 0#32⟩ ∧
      (pend State.reset [rdEvent 0x2000]).inbox = .access ⟨.read, .w32, 0x2000, 0#32⟩ :: [] ∧
      step (pend State.reset [rdEvent 0x2000]) = .refused (.offsetTooHigh 0x2000) :=
  ⟨by decide, by decide, by decide, by decide, by decide, by decide, by decide, rfl⟩

theorem witness_BusAddressesCountFromBase :
    (pend State.reset [.busAccess .read .w32 (State.reset.cfg.base + 0x038) 0#32]).inbox =
      .busAccess .read .w32 (State.reset.cfg.base + 0x038) 0#32 :: [] := by decide

theorem witness_ParametersNeverChange :
    step (pend State.reset [wrEvent 0x038 5#32]) =
      .next (out (step (pend State.reset [wrEvent 0x038 5#32]))) := rfl

theorem witness_ResultRegistersChangeOnlyByCommandOrReset :
    step (pend State.reset [wrEvent 0x020 0xFF#32]) =
        .next (out (step (pend State.reset [wrEvent 0x020 0xFF#32]))) ∧
      ∀ e rest, (pend State.reset [wrEvent 0x020 0xFF#32]).inbox = e :: rest →
        ¬ StartsCommandOrReset State.reset.cfg.base e := by
  refine ⟨rfl, fun e rest h => ?_⟩
  simp only [pend, wrEvent, List.cons.injEq] at h
  obtain ⟨rfl, -⟩ := h
  rintro (⟨t, ht, -, ho⟩ | ⟨l, hl⟩ | ⟨w, hw⟩)
  · simp only [portAccess, Option.some.injEq] at ht
    subst ht
    exact absurd ho (by decide)
  · cases hl
  · cases hw

/-- A window write of one byte, and an ENCODE, over the same listed byte. -/
theorem witness_PbufBytesChangeOnlyByWriteOrEncode :
    (out (step (pend (replyState 0#32 0#32) [.access (wr8 0x1000 0x55#8)]))).pbufByte 0 ≠
        (pend (replyState 0#32 0#32) [.access (wr8 0x1000 0x55#8)]).pbufByte 0 ∧
      (out (step (pend (replyState 0#32 0#32) [cmdEvent 2#32]))).pbufByte 15 ≠
        (pend (replyState 0#32 0#32) [cmdEvent 2#32]).pbufByte 15 ∧
      step (pend (replyState 0#32 0#32) [cmdEvent 2#32]) =
        .next (out (step (pend (replyState 0#32 0#32) [cmdEvent 2#32]))) :=
  ⟨by decide, by decide, rfl⟩

theorem witness_HostEventsAreServedInOrder :
    step (pend State.reset [wrEvent 0x014 1#32, cmdEvent 1#32]) =
      .next (out (step (pend State.reset [wrEvent 0x014 1#32, cmdEvent 1#32]))) := rfl

theorem witness_ReadsHaveNoSideEffect :
    ¬ RefusedAccess ⟨.read, .w32, 0x01C, 0#32⟩ ∧ ¬ RefusedAccess ⟨.read, .w8, 0x1FFF, 0#32⟩ ∧
      (pend State.reset [rdEvent 0x01C]).inbox = .access ⟨.read, .w32, 0x01C, 0#32⟩ :: [] := by decide

theorem witness_HostWritesOperandRegisters :
    ∀ o ∈ [0x000, 0x004, 0x008, 0x00C, 0x010, 0x014, 0x018],
      (pend State.reset [wrEvent o 0xFFFFFFFF#32]).inbox =
          .access ⟨.write, .w32, o, 0xFFFFFFFF#32⟩ :: [] ∧
        (pend State.reset [wrEvent o 0xFFFFFFFF#32]).rst = false := by decide

theorem witness_HostReadsEveryRegister :
    State.reset.cfg.wf = true ∧
      ∀ o ∈ [0x000, 0x004, 0x008, 0x00C, 0x010, 0x014, 0x018, 0x01C, 0x020, 0x024, 0x028, 0x02C,
          0x030, 0x034, 0x038],
        (pend State.reset [rdEvent o]).inbox = .access ⟨.read, .w32, o, 0#32⟩ :: [] := by decide

theorem witness_UnmappedAndReadOnlyIgnoreWrites :
    ∀ o ∈ [0x03C, 0xFFC, 0x020, 0x038],
      (pend State.reset [wrEvent o 5#32]).inbox = .access ⟨.write, .w32, o, 5#32⟩ :: [] ∧
        (pend State.reset [rdEvent o]).inbox = .access ⟨.read, .w32, o, 0#32⟩ :: [] ∧ o % 4 = 0 ∧
        ((0x03C ≤ o ∧ o < 0x1000) ∨ o ∈ [0x020, 0x024, 0x028, 0x02C, 0x030, 0x034, 0x038]) := by decide

/-- The lanes at the top of PBUF, across its end never (1024 is a multiple of 4), and at the top of
the window. -/
theorem witness_WindowWriteStoresItsLanes :
    ∀ a ∈ [0x000, 0x3FC, 0x400, 0xFFC],
      (pend State.reset [wrEvent (0x1000 + a) 7#32]).inbox =
        .access ⟨.write, .w32, 0x1000 + a, 7#32⟩ :: [] ∧ a < 0x1000 ∧ a % Width.w32.bytes = 0 := by
  decide

/-- A BUF_SIZE that is no multiple of 4: the lanes of one access on both sides of its end. -/
theorem witness_WindowReadReturnsItsLanes :
    (pend (State.powerUp ⟨37, 0⟩) [rdEvent 0x1024]).inbox =
        .access ⟨.read, .w32, 0x1000 + 0x024, 0#32⟩ :: [] ∧
      0x024 % Width.w32.bytes = 0 ∧ 0x024 + 0 < (State.powerUp ⟨37, 0⟩).cfg.bufSize ∧
      ¬ 0x024 + 1 < (State.powerUp ⟨37, 0⟩).cfg.bufSize := by decide

theorem witness_WindowReadSeesTheWriteBefore :
    (pend State.reset [wrEvent 0x13FC 7#32, rdEvent 0x13FC]).inbox =
        .access ⟨.write, .w32, 0x1000 + 0x3FC, 7#32⟩ ::
          .access ⟨.read, .w32, 0x1000 + 0x3FC, 0#32⟩ :: [] ∧
      0x3FC + Width.w32.bytes ≤ State.reset.cfg.bufSize ∧ 0x3FC < 0x1000 ∧
      0x3FC % Width.w32.bytes = 0 := by decide

theorem witness_TransactionTupleHoldsTheReadResult :
    (pend State.reset [.access (rd8 0x1FFF)]).inbox = .access (rd8 0x1FFF) :: [] ∧
      step (pend State.reset [.access (rd8 0x1FFF)]) =
        .next (out (step (pend State.reset [.access (rd8 0x1FFF)]))) ∧ (rd8 0x1FFF).dir = .read ∧
      step (pend State.reset [wrEvent 0x000 7#32]) =
        .next (out (step (pend State.reset [wrEvent 0x000 7#32]))) ∧
      (wr32 0x000 7#32).dir = .write := ⟨rfl, rfl, rfl, rfl, rfl⟩

theorem witness_ProgramEncodingIsTheListOfTuples :
    State.reset.inbox = [] ∧
      step (State.reset.withProgram [rd32 0x008, wr32 0x000 7#32]) =
        .next (out (step (State.reset.withProgram [rd32 0x008, wr32 0x000 7#32]))) ∧
      (∀ u, step (State.reset.withProgram [rd32 0x2000]) ≠ .next u) ∧
      programEncoding [rd32 0x008] State.reset = some [⟨.read, .w32, 0x008, 1#32⟩] :=
  ⟨rfl, rfl, fun _ h => (by cases h), by decide⟩

theorem witness_ResetInputHoldsTheRegisters :
    (pend (replyState 0#32 36#32) [.rst true]).inbox = .rst true :: [] ∧
      (pend State.reset.assertReset [.rst false]).inbox = .rst false :: [] ∧
      (pend State.reset.assertReset [.rst false]).rst = true ∧
      (pend State.reset [.rst false]).inbox = .rst false :: [] ∧
      (pend State.reset [.rst false]).rst = false ∧
      (pend State.reset.assertReset [cmdEvent 1#32]).inbox =
        .access ⟨.write, .w32, 0x01C, 1#32⟩ :: [] ∧
      (pend State.reset.assertReset [wrEvent 0xFFC 1#32]).inbox =
        .access ⟨.write, .w32, 0xFFC, 1#32⟩ :: [] := by decide

theorem witness_ResetDuringCommandLeavesOldOrNewBytes :
    (pend (encState 0#32) [.rstDuringCmd 2#32]).inbox = .rstDuringCmd 2#32 :: [] ∧
      InRange (encState 0#32) 16 ∧ (encState 0#32).rst = false := by decide

theorem witness_FoldIsTheEndAroundCarry :
    (0xFFFF#32).toNat ≤ 0xFFFF ∧ 0xFFFF < (0x10000#32).toNat := by decide

theorem witness_ChecksumComplementsTheFoldedPairSum :
    (List.replicate 4 0xFF#8).length ≤ 4096 ∧ ([] : List Byte).length ≤ 4096 := by decide

theorem witness_ChecksumIsAllOnesOnlyForZeroBytes :
    [0x00#8, 0x00#8].length ≤ 4096 ∧ (∀ b ∈ [0x00#8, 0x00#8], b = 0x00#8) ∧ rep.length ≤ 4096 ∧
      ¬ ∀ b ∈ rep, b = 0x00#8 := by decide

theorem witness_ChecksumIsByteOrderIndependent :
    rep.length ≤ 4096 ∧ [0x12#8].length ≤ 4096 := by decide

/-- The packet of ENCODE with a zero checksum; the two bytes at the end of a range. -/
theorem witness_PlacedChecksumVerifiesToZero :
    (∀ x ∈ [([0x08#8, 0x00#8, 0x00#8, 0x00#8] ++ tail, 2), ([0x08#8, 0x00#8, 0x00#8, 0x00#8], 2)],
      x.1.length ≤ 4096 ∧ x.1.length % 2 = 0 ∧ x.2 % 2 = 0 ∧ x.2 + 2 ≤ x.1.length ∧
      x.1.getD x.2 0xFF#8 = 0x00#8 ∧ x.1.getD (x.2 + 1) 0xFF#8 = 0x00#8 ∧
      ∃ b ∈ x.1, b ≠ 0x00#8) := by decide

theorem witness_SlotBytesAreTheSameInBothOrders :
    InRange (encState 1008#32) 16 ∧ InRange (st (ops 3#32 0#32 0#32) 0 []) 16 := by decide

theorem witness_PolicyHasNoEffect :
    st (ops 1#32 0#32 0#32) 0 [] =
        withRegs (encState 0#32)
          { (encState 0#32).regs with ctrl := (encState 0#32).regs.ctrl ^^^ 0x00000001#32 } ∧
      exec .encode (encState 0#32) = .next (out (exec .encode (encState 0#32))) ∧
      exec .encode (st (ops 1#32 0#32 0#32) 0 []) =
        .next (out (exec .encode (st (ops 1#32 0#32 0#32) 0 []))) :=
  ⟨by decide, rfl, rfl⟩

/-- V-EN13: two states with different PBUF bytes and different LEN. -/
theorem witness_EncodeIsDeterministicInItsOperands :
    offOf (encState 0#32) = offOf (replyState 0#32 5#32) ∧
      identOf (encState 0#32) = identOf (replyState 0#32 5#32) ∧
      seqOf (encState 0#32) = seqOf (replyState 0#32 5#32) ∧
      txtsOf (encState 0#32) = txtsOf (replyState 0#32 5#32) ∧
      bigOf (encState 0#32) = bigOf (replyState 0#32 5#32) ∧
      (encState 0#32).regs.ctrl.getLsbD 0 = (replyState 0#32 5#32).regs.ctrl.getLsbD 0 ∧
      InRange (encState 0#32) 16 ∧ InRange (replyState 0#32 5#32) 16 := by decide

theorem witness_EncodedRequestVerifies : InRange (encState 1008#32) 16 := by decide

theorem witness_DifferentIdentifierNeverMatches :
    replyIdent (foreignState 4#32 36#32) ≠ identOf (foreignState 4#32 36#32) ∧
      exec .matchReply (foreignState 4#32 36#32) =
        .next (out (exec .matchReply (foreignState 4#32 36#32))) :=
  ⟨by decide, rfl⟩

/-- V-MA4a: type 8 is not checked. -/
theorem witness_PermissiveModeMatchesOnTheIdentifier :
    strictOf (st (ops 0#32 0#32 36#32) 0 (iph ++ req)) = false ∧
      InRange (st (ops 0#32 0#32 36#32) 0 (iph ++ req)) 36 ∧
      36 ≤ lenOf (st (ops 0#32 0#32 36#32) 0 (iph ++ req)) ∧
      replyIdent (st (ops 0#32 0#32 36#32) 0 (iph ++ req)) =
        identOf (st (ops 0#32 0#32 36#32) 0 (iph ++ req)) := by decide

/-- The same datagram behind another IP header. -/
theorem witness_IpHeaderIsNeverRead :
    (replyState 4#32 36#32).regs =
        (st (ops 4#32 0#32 36#32) 0 (List.replicate 20 0xAA#8 ++ rep)).regs ∧
      (∀ k, 20 ≤ k → k < lenOf (replyState 4#32 36#32) →
        byteAt (replyState 4#32 36#32) k =
          byteAt (st (ops 4#32 0#32 36#32) 0 (List.replicate 20 0xAA#8 ++ rep)) k) ∧
      exec .matchReply (replyState 4#32 36#32) =
        .next (out (exec .matchReply (replyState 4#32 36#32))) ∧
      exec .parse (replyState 4#32 36#32) = .next (out (exec .parse (replyState 4#32 36#32))) := by
  refine ⟨by decide, fun k h1 h2 => ?_, rfl, rfl⟩
  have h2 : k < 36 := h2
  interval_cases k <;> decide

/-- V-EN1 and its reply, matched in both modes. -/
theorem witness_ReplyToAnEncodedRequestMatches :
    InRange (encState 0#32) 16 ∧
      exec .encode (encState 0#32) = .next (out (exec .encode (encState 0#32))) ∧
      bigOf (replyState 4#32 36#32) = bigOf (encState 0#32) ∧
      identOf (replyState 4#32 36#32) = identOf (encState 0#32) ∧
      lenOf (replyState 4#32 36#32) = 36 ∧ InRange (replyState 4#32 36#32) 36 ∧
      byteAt (replyState 4#32 36#32) 20 = 0x00#8 ∧
      (∀ k, k = 1 ∨ 4 ≤ k → k < 16 →
        byteAt (replyState 4#32 36#32) (20 + k) =
          (out (exec .encode (encState 0#32))).pbufByte (offOf (encState 0#32) + k)) ∧
      checksum ((operand (replyState 4#32 36#32)).drop 20) = 0x0000#16 := by
  refine ⟨by decide, rfl, by decide, by decide, by decide, by decide, by decide,
    fun k h1 h2 => ?_, by decide⟩
  interval_cases k <;> first | decide | omega

end Sys2Proof.Tests
end

/-!
PROOFS. What a command, a host access and a reset can do to the state, and the invariant every step
keeps.
-/
namespace Sys2Proof.Machine

/-! ### The invariant, part by part -/

theorem Regs.wf_iff (r : Regs) :
    r.wf = true ↔ r.ctrl.extractLsb' 3 29 = 0#29 ∧ r.ident.extractLsb' 16 16 = 0#16 ∧
      r.seq.extractLsb' 16 16 = 0#16 ∧ r.off.extractLsb' 16 16 = 0#16 ∧
      r.len.extractLsb' 16 16 = 0#16 ∧ r.result.extractLsb' 16 16 = 0#16 ∧
      r.status ∈ statusValues := by
  simp [Regs.wf, and_assoc]

theorem State.wf_iff (s : State) :
    s.wf = true ↔ s.cfg.wf = true ∧ Memory.wf s.cfg.bufSize s.pbuf = true ∧ s.regs.wf = true ∧
      (s.rst = true → s.regs = Regs.reset) := by
  simp [State.wf, and_assoc, ← Bool.not_eq_true, imp_iff_not_or]

theorem Regs.reset_wf : Regs.reset.wf = true := by decide

/-- With the reset input released the clause on it says nothing. -/
theorem State.wf_iff_of_released {s : State} (h : s.rst = false) :
    s.wf = true ↔ s.cfg.wf = true ∧ Memory.wf s.cfg.bufSize s.pbuf = true ∧ s.regs.wf = true := by
  simp [State.wf_iff, h]

theorem State.accept_wf (s : State) (rest : List Event) : (s.accept rest).wf = s.wf := rfl

theorem State.setRdata_wf (s : State) (v : Word) : (s.setRdata v).wf = s.wf := rfl

theorem State.setPbuf_wf {s : State} {m : Memory} (h : s.wf = true)
    (hm : Memory.wf s.cfg.bufSize m = true) : (s.setPbuf m).wf = true := by
  obtain ⟨hcfg, -, hregs, hrst⟩ := s.wf_iff.1 h
  exact (State.wf_iff _).2 ⟨hcfg, hm, hregs, hrst⟩

/-- Registers that meet their own invariant may be written while the reset input is released. -/
theorem State.withRegs_wf {s : State} {r : Regs} (h : s.wf = true) (hrel : s.rst = false)
    (hr : r.wf = true) : State.wf { s with regs := r } = true := by
  obtain ⟨hcfg, hpbuf, -⟩ := (State.wf_iff_of_released hrel).1 h
  exact (State.wf_iff_of_released (s := { s with regs := r }) hrel).2 ⟨hcfg, hpbuf, hr⟩

theorem State.assertReset_wf {s : State} (h : s.wf = true) : s.assertReset.wf = true := by
  obtain ⟨hcfg, hpbuf, -, -⟩ := s.wf_iff.1 h
  exact (State.wf_iff _).2 ⟨hcfg, hpbuf, Regs.reset_wf, fun _ => rfl⟩

theorem State.releaseReset_wf {s : State} (h : s.wf = true) : s.releaseReset.wf = true := by
  unfold State.releaseReset
  split
  · obtain ⟨hcfg, hpbuf, -, -⟩ := s.wf_iff.1 h
    exact (State.wf_iff_of_released rfl).2 ⟨hcfg, hpbuf, Regs.reset_wf⟩
  · exact h

/-! ### The registers -/

theorem Regs.setStatus_wf {r : Regs} {v : Word} (h : r.wf = true) (hv : v ∈ statusValues) :
    Regs.wf { r with status := v } = true := by
  rw [Regs.wf_iff] at h ⊢
  simp [h, hv]

theorem Regs.setResult_wf {r : Regs} (h : r.wf = true) (v : Half) :
    Regs.wf { r with result := v.setWidth 32 } = true := by
  have hv : (v.setWidth 32).extractLsb' 16 16 = 0#16 := by
    ext i hi
    simp
  rw [Regs.wf_iff] at h ⊢
  simp [h, hv]

/-- The masks of the host's writes clear the reserved bits (spec/10_state.md R20 to R25). -/
theorem Regs.hostWrite_wf {r : Regs} (h : r.wf = true) (v : Word) (n : RegName) :
    (r.hostWrite v n).wf = true := by
  have h3 : (v &&& 0x00000007#32).extractLsb' 3 29 = 0#29 := by
    simp [BitVec.extractLsb'_and]
  have h16 : (v &&& 0x0000FFFF#32).extractLsb' 16 16 = 0#16 := by
    simp [BitVec.extractLsb'_and]
  rw [Regs.wf_iff] at h ⊢
  cases n <;> simp [Regs.hostWrite, h, h3, h16]

/-! ### What a command can do -/

/-- `raise E` reports a listed value, for every error. -/
theorem statusWord_mem_statusValues (e : ErrCode) :
    statusWord e false false false ∈ statusValues := by cases e <;> decide

theorem parseStatus_mem_statusValues (hasTs : Bool) :
    statusWord .none true hasTs false ∈ statusValues := by cases hasTs <;> decide

theorem matchStatus_mem_statusValues (isM hasTs : Bool) :
    matchStatus isM hasTs ∈ statusValues := by cases isM <;> cases hasTs <;> decide

/-- Inversion of what PARSE and MATCH share: an error, or the datagram is read. -/
theorem withDatagram_inversion {s t : State} {f : List Byte → State}
    (h : (withDatagram s fun d => .next (f d)) = .next t) :
    (∃ e, t = s.raise e) ∨
    (s.regs.offNat + s.regs.lenNat ≤ s.cfg.bufSize ∧ 28 ≤ s.regs.lenNat ∧
      t = f (s.pbufBytes s.regs.offNat s.regs.lenNat)) := by
  rw [withDatagram_cases] at h
  split at h
  · cases h
    exact .inl ⟨_, rfl⟩
  · split at h <;> cases h
    · exact .inl ⟨_, rfl⟩
    · exact .inr ⟨by omega, by omega, rfl⟩

/-- What a command which answers a next state can have done, in the form an invariant needs. Which error
it raises, and when, stands in the command's own equation (`execCsum_cases` and the like). -/
theorem exec_inversion {i : Instr} {s t : State} (h : exec i s = .next t) :
    (i = .nop ∧ t = s) ∨
    (i ≠ .nop ∧ ∃ e, t = s.raise e) ∨
    (i = .csum ∧ s.regs.offNat + s.regs.lenNat ≤ s.cfg.bufSize ∧
      t = (s.setResult (checksum (s.pbufBytes s.regs.offNat s.regs.lenNat))).setStatus
        0x00000000#32) ∨
    (i = .encode ∧ s.regs.offNat + 16 ≤ s.cfg.bufSize ∧
      t = ((s.setPbuf (Memory.putAll s.pbuf s.regs.offNat s.regs.packet)).setResult
        s.regs.slot).setStatus 0x00000000#32) ∨
    ((i = .parse ∨ i = .matchReply) ∧ s.regs.offNat + s.regs.lenNat ≤ s.cfg.bufSize ∧
      28 ≤ s.regs.lenNat ∧ ∃ v ∈ statusValues,
        t = (loadRx s (s.pbufBytes s.regs.offNat s.regs.lenNat)).setStatus v) := by
  cases i with
  | nop =>
    cases h
    exact .inl ⟨rfl, rfl⟩
  | csum =>
    change execCsum s = _ at h
    rw [execCsum_cases] at h
    split at h <;> cases h
    · exact .inr (.inl ⟨nofun, _, rfl⟩)
    · exact .inr (.inr (.inl ⟨rfl, by omega, rfl⟩))
  | encode =>
    change execEncode s = _ at h
    rw [execEncode_cases] at h
    split at h <;> cases h
    · exact .inr (.inl ⟨nofun, _, rfl⟩)
    · exact .inr (.inr (.inr (.inl ⟨rfl, by omega, rfl⟩)))
  | parse =>
    obtain ⟨e, rfl⟩ | ⟨hle, hlen, rfl⟩ := withDatagram_inversion h
    · exact .inr (.inl ⟨nofun, e, rfl⟩)
    · exact .inr (.inr (.inr (.inr ⟨.inl rfl, hle, hlen, _, parseStatus_mem_statusValues _, rfl⟩)))
  | matchReply =>
    obtain ⟨e, rfl⟩ | ⟨hle, hlen, rfl⟩ := withDatagram_inversion h
    · exact .inr (.inl ⟨nofun, e, rfl⟩)
    · exact .inr (.inr (.inr (.inr ⟨.inr rfl, hle, hlen, _, matchStatus_mem_statusValues _ _, rfl⟩)))

/-- A host write to CMD runs the command the word decodes to, or reports BADCMD. -/
theorem runCmd_inversion {w : Word} {s t : State} (h : runCmd w s = .next t) :
    (∃ i, decode w = .cmd i ∧ exec i s = .next t) ∨
    (∃ why, decode w = .illegal why ∧ t = s.raise .badCmd) := by
  unfold runCmd at h
  cases hd : decode w with
  | cmd i => exact .inl ⟨i, rfl, by simpa only [hd] using h⟩
  | illegal why =>
    simp only [hd, badCmd] at h
    cases h
    exact .inr ⟨why, rfl, rfl⟩

/-- Only an ENCODE in range has a write that a reset can fall into. -/
theorem pendingWrite_eq_some {w : Word} {s : State} {p : Nat × List Byte}
    (h : pendingWrite w s = some p) :
    decode w = .cmd .encode ∧ s.regs.offNat + 16 ≤ s.cfg.bufSize ∧
      p = (s.regs.offNat, s.regs.packet) := by
  unfold pendingWrite at h
  split at h
  · next hd =>
    split at h
    · next hle => exact ⟨hd, hle, (Option.some.inj h).symm⟩
    · cases h
  · cases h

/-- A reset during a CMD write acts as a reset, and draws the bytes of an ENCODE that was in range
(spec/70_reset_and_hazards.md R133). -/
theorem State.resetDuringCmd_cases (s : State) (w : Word) :
    s.resetDuringCmd w = s.assertReset ∨
    (s.rst = false ∧ decode w = .cmd .encode ∧ s.regs.offNat + 16 ≤ s.cfg.bufSize ∧
      s.resetDuringCmd w =
        { s.assertReset with
          pbuf := Memory.putDrawn s.pbuf s.regs.offNat (Config.resetDraw s.draws) 0 s.regs.packet
          draws := s.draws + 1 }) := by
  unfold State.resetDuringCmd
  cases hr : s.rst with
  | true => exact .inl rfl
  | false =>
    cases hp : pendingWrite w s with
    | none => exact .inl rfl
    | some p =>
      obtain ⟨hd, hle, rfl⟩ := pendingWrite_eq_some hp
      exact .inr ⟨rfl, hd, hle, rfl⟩

/-! ### The invariant over every event -/

theorem State.setStatus_wf {s : State} {v : Word} (h : s.wf = true) (hrel : s.rst = false)
    (hv : v ∈ statusValues) : (s.setStatus v).wf = true := by
  obtain ⟨-, -, hregs, -⟩ := s.wf_iff.1 h
  exact State.withRegs_wf h hrel (Regs.setStatus_wf hregs hv)

theorem State.setResult_wf {s : State} (h : s.wf = true) (hrel : s.rst = false) (v : Half) :
    (s.setResult v).wf = true := by
  obtain ⟨-, -, hregs, -⟩ := s.wf_iff.1 h
  exact State.withRegs_wf h hrel (Regs.setResult_wf hregs v)

theorem loadRx_wf {s : State} (h : s.wf = true) (hrel : s.rst = false) (d : List Byte) :
    (loadRx s d).wf = true := by
  obtain ⟨hcfg, hpbuf, hregs⟩ := (State.wf_iff_of_released hrel).1 h
  obtain ⟨hcfg', hpbuf', hrst', -⟩ := loadRx_frame s d
  have hrx : (loadRx s d).regs.wf = true := by
    rw [loadRx_regs]
    split <;> exact hregs
  rw [State.wf_iff_of_released (hrst'.trans hrel), hcfg', hpbuf']
  exact ⟨hcfg, hpbuf, hrx⟩

/-- A command, with the reset input released, keeps the invariant. -/
theorem exec_wf {i : Instr} {s t : State} (h : s.wf = true) (hrel : s.rst = false)
    (ht : exec i s = .next t) : t.wf = true := by
  have hzero : 0x00000000#32 ∈ statusValues := by decide
  obtain ⟨-, rfl⟩ | ⟨-, e, rfl⟩ | ⟨-, -, rfl⟩ | ⟨-, hle, rfl⟩ | ⟨-, -, -, v, hv, rfl⟩ :=
    exec_inversion ht
  · exact h
  · exact State.setStatus_wf h hrel (statusWord_mem_statusValues e)
  · exact State.setStatus_wf (State.setResult_wf h hrel _) hrel hzero
  · obtain ⟨-, hpbuf, -, -⟩ := s.wf_iff.1 h
    have hput := State.setPbuf_wf h
      (Memory.wf_putAll s.regs.packet hpbuf (by rwa [Regs.packet_length]))
    exact State.setStatus_wf (State.setResult_wf hput hrel _) hrel hzero
  · obtain ⟨-, -, hrst, -⟩ := loadRx_frame s (s.pbufBytes s.regs.offNat s.regs.lenNat)
    exact State.setStatus_wf (loadRx_wf h hrel _) (hrst.trans hrel) hv

theorem runCmd_wf {w : Word} {s t : State} (h : s.wf = true) (hrel : s.rst = false)
    (ht : runCmd w s = .next t) : t.wf = true := by
  obtain ⟨i, -, ht⟩ | ⟨-, -, rfl⟩ := runCmd_inversion ht
  · exact exec_wf h hrel ht
  · exact State.setStatus_wf h hrel (statusWord_mem_statusValues .badCmd)

theorem State.windowWrite_wf {s : State} (h : s.wf = true) (a n : Nat) (v : Word) :
    (s.windowWrite a n v).wf = true := by
  obtain ⟨-, hpbuf, -, -⟩ := s.wf_iff.1 h
  exact State.setPbuf_wf h (Memory.wf_putBelow _ hpbuf a)

/-- All that a host access which answers a next state can have done. -/
theorem serveAccess_next {a : Transaction} {s t : State} (h : serveAccess a s = .next t) :
    (a.dir = .read ∧ ∃ v, t = s.setRdata v) ∨
    (a.dir = .write ∧ a.offset < 0x1000 ∧ t = s) ∨
    (a.dir = .write ∧ s.rst = false ∧ a.offset = 0x01C ∧ runCmd a.data s = .next t) ∨
    (a.dir = .write ∧ s.rst = false ∧ ∃ r : RegName, r ≠ .cmd ∧ a.offset = r.offset ∧
      t = { s with regs := Regs.hostWrite s.regs a.data r }) ∨
    (a.dir = .write ∧ 0x1000 ≤ a.offset ∧ a.offset < 0x2000 ∧
      t = s.windowWrite (a.offset - 0x1000) a.width.bytes a.data) := by
  obtain ⟨-, r, ht⟩ | ⟨-, hd, v, ht⟩ | ⟨-, hd, hlt, ht⟩ | ⟨-, hd, hrel, ho, ht⟩ |
      ⟨-, hd, hrel, r, hr, ho, ht⟩ | ⟨-, hd, hlo, hhi, ht⟩ := serveAccess_inversion a s <;>
    rw [ht] at h
  · cases h
  · cases h
    exact .inl ⟨hd, v, rfl⟩
  · cases h
    exact .inr (.inl ⟨hd, hlt, rfl⟩)
  · exact .inr (.inr (.inl ⟨hd, hrel, ho, h⟩))
  · cases h
    exact .inr (.inr (.inr (.inl ⟨hd, hrel, r, hr, ho, rfl⟩)))
  · cases h
    exact .inr (.inr (.inr (.inr ⟨hd, hlo, hhi, rfl⟩)))

theorem serveAccess_wf {a : Transaction} {s t : State} (h : s.wf = true)
    (ht : serveAccess a s = .next t) : t.wf = true := by
  obtain ⟨-, v, rfl⟩ | ⟨-, -, rfl⟩ | ⟨-, hrel, -, ht⟩ | ⟨-, hrel, r, -, -, rfl⟩ | ⟨-, -, -, rfl⟩ :=
    serveAccess_next ht
  · exact (s.setRdata_wf v).trans h
  · exact h
  · exact runCmd_wf h hrel ht
  · obtain ⟨-, -, hregs, -⟩ := s.wf_iff.1 h
    exact State.withRegs_wf h hrel (Regs.hostWrite_wf hregs a.data r)
  · exact State.windowWrite_wf h _ _ _

theorem State.resetDuringCmd_wf {s : State} (h : s.wf = true) (w : Word) :
    (s.resetDuringCmd w).wf = true := by
  obtain heq | ⟨-, -, hle, heq⟩ := s.resetDuringCmd_cases w <;> rw [heq]
  · exact State.assertReset_wf h
  · obtain ⟨hcfg, hpbuf, -, -⟩ := s.wf_iff.1 h
    have hdrawn := Memory.wf_putDrawn (k := 0) (Config.resetDraw s.draws) s.regs.packet hpbuf
      (by rwa [Regs.packet_length])
    exact (State.wf_iff _).2 ⟨hcfg, hdrawn, Regs.reset_wf, fun _ => rfl⟩

/-- What a step that answers a next state did: nothing when idle, or it served one access at the port,
by offset or by bus address, or one event of the reset input. -/
theorem step_next {s t : State} (h : step s = .next t) :
    (s.inbox = [] ∧ t = s) ∨
    ∃ e rest, s.inbox = e :: rest ∧
      ((∃ a, Claims.portAccess s.cfg.base e = some a ∧ serveAccess a (s.accept rest) = .next t) ∨
       (e = .rst true ∧ t = (s.accept rest).assertReset) ∨
       (e = .rst false ∧ t = (s.accept rest).releaseReset) ∨
       (∃ w, e = .rstDuringCmd w ∧ t = (s.accept rest).resetDuringCmd w)) := by
  obtain hidle | ⟨e, rest, hi, ⟨a, rfl, ha⟩ | ⟨d, w, x, v, rfl, hx, ha⟩ | hreset⟩ :=
    step_inversion h
  · exact .inl hidle
  · exact .inr ⟨_, rest, hi, .inl ⟨a, rfl, ha⟩⟩
  · exact .inr ⟨_, rest, hi, .inl ⟨_, if_pos hx, ha⟩⟩
  · exact .inr ⟨e, rest, hi, .inr hreset⟩

theorem step_wf {s t : State} (h : s.wf = true) (ht : step s = .next t) : t.wf = true := by
  obtain ⟨-, rfl⟩ | ⟨e, rest, -, ⟨a, -, ha⟩ | ⟨-, rfl⟩ | ⟨-, rfl⟩ | ⟨w, -, rfl⟩⟩ := step_next ht
  · exact h
  · exact serveAccess_wf ((s.accept_wf rest).trans h) ha
  · exact State.assertReset_wf ((s.accept_wf rest).trans h)
  · exact State.releaseReset_wf ((s.accept_wf rest).trans h)
  · exact State.resetDuringCmd_wf ((s.accept_wf rest).trans h) w

/-! ### The parameters over every event -/

theorem exec_cfg {i : Instr} {s t : State} (h : exec i s = .next t) : t.cfg = s.cfg := by
  obtain ⟨-, rfl⟩ | ⟨-, e, rfl⟩ | ⟨-, -, rfl⟩ | ⟨-, -, rfl⟩ | ⟨-, -, -, v, -, rfl⟩ := exec_inversion h
  · rfl
  · rfl
  · rfl
  · rfl
  · exact (loadRx_frame s _).1

theorem runCmd_cfg {w : Word} {s t : State} (h : runCmd w s = .next t) : t.cfg = s.cfg := by
  obtain ⟨i, -, h⟩ | ⟨-, -, rfl⟩ := runCmd_inversion h
  · exact exec_cfg h
  · rfl

theorem serveAccess_cfg {a : Transaction} {s t : State} (h : serveAccess a s = .next t) :
    t.cfg = s.cfg := by
  obtain ⟨-, v, rfl⟩ | ⟨-, -, rfl⟩ | ⟨-, -, -, h⟩ | ⟨-, -, r, -, -, rfl⟩ | ⟨-, -, -, rfl⟩ :=
    serveAccess_next h
  · rfl
  · rfl
  · exact runCmd_cfg h
  · rfl
  · rfl

@[simp] theorem State.resetDuringCmd_cfg (s : State) (w : Word) :
    (s.resetDuringCmd w).cfg = s.cfg := by
  obtain heq | ⟨-, -, -, heq⟩ := s.resetDuringCmd_cases w <;> rw [heq] <;> rfl

theorem step_cfg {s t : State} (h : step s = .next t) : t.cfg = s.cfg := by
  obtain ⟨-, rfl⟩ | ⟨e, rest, -, ⟨a, -, ha⟩ | ⟨-, rfl⟩ | ⟨-, rfl⟩ | ⟨w, -, rfl⟩⟩ := step_next h
  · rfl
  · exact (serveAccess_cfg ha).trans (s.accept_cfg rest)
  · rfl
  · simp
  · simp

/-! ### The result registers -/

/-- No host write reaches a result register (spec/10_state.md R38). -/
theorem Regs.hostWrite_results (r : Regs) (v : Word) (n : RegName) :
    (r.hostWrite v n).status = r.status ∧ (r.hostWrite v n).result = r.result ∧
      (r.hostWrite v n).rxhdr0 = r.rxhdr0 ∧ (r.hostWrite v n).rxhdr1 = r.rxhdr1 ∧
      (r.hostWrite v n).rxtsLo = r.rxtsLo ∧ (r.hostWrite v n).rxtsHi = r.rxtsHi := by
  cases n <;> exact ⟨rfl, rfl, rfl, rfl, rfl, rfl⟩

/-- An access that starts no command leaves the registers or acts as one host write on them. -/
theorem serveAccess_regs {a : Transaction} {s t : State} (h : serveAccess a s = .next t) :
    (a.dir = .write ∧ a.offset = 0x01C) ∨ t.regs = s.regs ∨
      ∃ r, t.regs = s.regs.hostWrite a.data r := by
  obtain ⟨-, v, rfl⟩ | ⟨-, -, rfl⟩ | ⟨hd, -, ho, -⟩ | ⟨-, -, r, -, -, rfl⟩ | ⟨-, -, -, rfl⟩ :=
    serveAccess_next h
  · exact .inr (.inl rfl)
  · exact .inr (.inl rfl)
  · exact .inl ⟨hd, ho⟩
  · exact .inr (.inr ⟨r, rfl⟩)
  · exact .inr (.inl rfl)

/-- A step that serves neither a CMD write nor an event of the reset input leaves the registers or acts
as one host write on them. -/
theorem step_regs {s t : State} (h : step s = .next t)
    (hno : ∀ e rest, s.inbox = e :: rest → ¬ Claims.StartsCommandOrReset s.cfg.base e) :
    t.regs = s.regs ∨ ∃ v r, t.regs = s.regs.hostWrite v r := by
  obtain ⟨-, rfl⟩ | ⟨e, rest, hi, ⟨a, hport, ha⟩ | ⟨he, -⟩ | ⟨he, -⟩ | ⟨w, he, -⟩⟩ := step_next h
  · exact .inl rfl
  · obtain ⟨hd, ho⟩ | hsame | ⟨r, hr⟩ := serveAccess_regs ha
    · exact absurd (.inl ⟨a, hport, hd, ho⟩) (hno e rest hi)
    · exact .inl hsame
    · exact .inr ⟨a.data, r, hr⟩
  · exact absurd (.inr (.inl ⟨true, he⟩)) (hno e rest hi)
  · exact absurd (.inr (.inl ⟨false, he⟩)) (hno e rest hi)
  · exact absurd (.inr (.inr ⟨w, he⟩)) (hno e rest hi)

end Sys2Proof.Machine

/-!
PROOFS. The byte-order helpers of spec/00_scope.md R11: bytes of a value, a value of bytes, and that
reading undoes writing, for every number of bytes and every width.
-/
namespace Sys2Proof.Machine

open Claims

@[simp] theorem orderBytes_orderBytes (h : ByteOrder) (s : List Byte) :
    orderBytes h (orderBytes h s) = s := by
  cases h <;> simp [orderBytes]

/-! ### Splitting and joining -/

/-- Byte `k` of a split value is bits `8k` to `8k+7`. -/
theorem splitBytes_eq_map {w : Nat} (n : Nat) (v : BitVec w) :
    splitBytes n v = (List.range n).map fun k => v.extractLsb' (8 * k) 8 := by
  induction n generalizing v with
  | zero => rfl
  | succ n ih =>
    have hfirst : v.setWidth 8 = v.extractLsb' 0 8 := by
      ext i hi
      simp
    have hrest (k : Nat) : (v >>> 8).extractLsb' (8 * k) 8 = v.extractLsb' (8 * (k + 1)) 8 := by
      ext i hi
      simp [Nat.mul_succ, Nat.add_comm, Nat.add_left_comm]
    rw [splitBytes, ih, List.range_succ_eq_map]
    simp [hfirst, hrest, Function.comp_def]

/-- A byte below bytes of known value: the value is their concatenation. -/
theorem joinBytes_cons {w m : Nat} {r : List Byte} {x : BitVec m} (b : Byte)
    (h : joinBytes w r = x.setWidth w) : joinBytes w (b :: r) = (x ++ b).setWidth w := by
  have hbyte (i : Nat) (hi : 8 ≤ i) : b.getLsbD i = false := BitVec.getLsbD_of_ge b i hi
  have hdisjoint : b.setWidth w &&& (x.setWidth w <<< 8) = 0#w := by
    ext i hi
    by_cases h8 : i < 8
    · simp [h8]
    · simp [hbyte i (by omega)]
  rw [joinBytes, h, BitVec.add_eq_or_of_and_eq_zero _ _ hdisjoint]
  ext i hi
  by_cases h8 : i < 8
  · simp [h8, BitVec.getLsbD_append]
  · simp [h8, BitVec.getLsbD_append, hbyte i (by omega)]

theorem joinBytes_singleton (w : Nat) (b : Byte) : joinBytes w [b] = b.setWidth w := by
  simp [joinBytes]

theorem joinBytes_two (b0 b1 : Byte) : joinBytes 16 [b0, b1] = b1 ++ b0 := by
  simpa using joinBytes_cons b0 (joinBytes_singleton 16 b1)

theorem joinBytes_eight (b : Nat → Byte) :
    joinBytes 64 [b 0, b 1, b 2, b 3, b 4, b 5, b 6, b 7] =
      b 7 ++ b 6 ++ b 5 ++ b 4 ++ b 3 ++ b 2 ++ b 1 ++ b 0 := by
  simpa using joinBytes_cons (b 0) <| joinBytes_cons (b 1) <| joinBytes_cons (b 2) <|
    joinBytes_cons (b 3) <| joinBytes_cons (b 4) <| joinBytes_cons (b 5) <|
      joinBytes_cons (b 6) <| joinBytes_singleton 64 (b 7)

/-- The lowest byte of a value and the value above it. -/
theorem append_setWidth_eight {w : Nat} (v : BitVec w) :
    ((v >>> 8) ++ v.setWidth 8).setWidth w = v := by
  ext i hi
  by_cases h8 : i < 8
  · simp [h8, hi, BitVec.getLsbD_append, BitVec.getLsbD_eq_getElem]
  · simp [h8, hi, BitVec.getLsbD_append, BitVec.getLsbD_eq_getElem,
      show 8 + (i - 8) = i by omega]

/-- Joining undoes splitting when the bytes are enough to hold the value. -/
theorem joinBytes_splitBytes {w : Nat} (n : Nat) (v : BitVec w) (h : v.toNat < 2 ^ (8 * n)) :
    joinBytes w (splitBytes n v) = v := by
  induction n generalizing v with
  | zero =>
    have hzero : v.toNat = 0 := by simpa using h
    exact BitVec.eq_of_toNat_eq (by simpa [splitBytes, joinBytes] using hzero.symm)
  | succ n ih =>
    have hshift : (v >>> 8).toNat < 2 ^ (8 * n) := by
      rw [Nat.mul_succ, Nat.pow_add] at h
      rw [BitVec.toNat_ushiftRight, Nat.shiftRight_eq_div_pow]
      omega
    have hrest : joinBytes w (splitBytes n (v >>> 8)) = (v >>> 8).setWidth w := by
      rw [ih _ hshift, BitVec.setWidth_eq]
    rw [splitBytes, joinBytes_cons _ hrest, append_setWidth_eight]

/-! ### The helpers of R11 -/

theorem swap16_eq_swapBytes (v : Half) : swap16 v = swapBytes v := by
  refine BitVec.eq_of_getLsbD_eq fun i hi => ?_
  simp only [swap16, swapBytes, BitVec.getLsbD_or, BitVec.getLsbD_shiftLeft,
    BitVec.getLsbD_ushiftRight, BitVec.getLsbD_append, BitVec.getLsbD_extractLsb']
  by_cases h8 : i < 8
  · simp [h8]
  · have habove : v.getLsbD (8 + i) = false := BitVec.getLsbD_of_ge v _ (by omega)
    simp [h8, hi, habove, show i - 8 < 8 by omega]

theorem put16_eq_put2 (v : Half) :
    put16 .little v = put2 false v ∧ put16 .big v = put2 true v := by
  simp [put16, put2, orderBytes, splitBytes_eq_map, List.range_succ]

theorem put64_eq_put8 (v : DWord) :
    put64 .little v = put8 false v ∧ put64 .big v = put8 true v := by
  simp [put64, put8, orderBytes, splitBytes_eq_map, List.range_succ]

theorem get16_eq_get2 (b0 b1 : Byte) :
    get16 .little [b0, b1] = get2 false b0 b1 ∧ get16 .big [b0, b1] = get2 true b0 b1 :=
  ⟨joinBytes_two b0 b1, joinBytes_two b1 b0⟩

theorem get64_eq_get8 (b : Nat → Byte) :
    get64 .little ((List.range 8).map b) = get8 false b ∧
      get64 .big ((List.range 8).map b) = get8 true b :=
  ⟨joinBytes_eight b, joinBytes_eight fun k => b (7 - k)⟩

theorem get16_put16 (h : ByteOrder) (v : Half) : get16 h (put16 h v) = v := by
  rw [get16, put16, orderBytes_orderBytes, joinBytes_splitBytes 2 v v.isLt]

theorem get64_put64 (h : ByteOrder) (v : DWord) : get64 h (put64 h v) = v := by
  rw [get64, put64, orderBytes_orderBytes, joinBytes_splitBytes 8 v v.isLt]

end Sys2Proof.Machine

/-!
PROOFS. The statements of spec/00_scope.md: the idle block, the parameters, the result registers, the
invariant, the byte order.
-/
namespace Sys2Proof.Proofs

open Sys2Proof.Machine

/-- Settles O24: each event keeps the invariant, by the inversion of a step. -/
theorem everyStepKeepsTheInvariant : Obligations.EveryStepKeepsTheInvariant :=
  fun _ _ hwf hstep => step_wf hwf hstep

/-- Settles O27: no event changes the parameters, and INFO is computed from them alone. -/
theorem parametersNeverChange : Obligations.ParametersNeverChange := by
  intro s t hstep
  have hcfg : t.cfg = s.cfg := step_cfg hstep
  exact ⟨hcfg, congrArg Params.info hcfg⟩

/-- Settles O28: without a command or a reset a step is at most one host write on the registers, and a
host write reaches no result register. -/
theorem resultRegistersChangeOnlyByCommandOrReset :
    Obligations.ResultRegistersChangeOnlyByCommandOrReset := by
  intro s t hstep hno
  obtain hsame | ⟨v, r, hwrite⟩ := step_regs hstep hno
  · rw [hsame]
    exact ⟨rfl, rfl, rfl, rfl, rfl, rfl⟩
  · rw [hwrite]
    exact s.regs.hostWrite_results v r

/-- Settles O7: an empty inbox is the idle case of a step. -/
theorem idleBlockKeepsItsState : Obligations.IdleBlockKeepsItsState := by
  intro s hidle
  rw [step, serveNext, hidle]

/-- Settles O46: each helper is the spec's formula, and joining undoes splitting. -/
theorem byteOrderHelpersAreInverse : Obligations.ByteOrderHelpersAreInverse :=
  ⟨fun v => ⟨swap16_eq_swapBytes v, swap16_eq_swapBytes v, rfl⟩, put16_eq_put2, get16_eq_get2,
    put64_eq_put8, get64_eq_get8, get16_put16, get64_put64⟩

end Sys2Proof.Proofs

/-!
PROOFS. The formulas of the statements and the model's operands are the same values: the fields of
the operand registers, the datagram, its header, the match predicate.
-/
namespace Sys2Proof.Machine

open Claims

/-! ### The operands -/

theorem Regs.offNat_eq_offOf (s : State) : s.regs.offNat = offOf s := by
  simp [Regs.offNat, offOf, BitVec.extractLsb'_toNat]

theorem Regs.lenNat_eq_lenOf (s : State) : s.regs.lenNat = lenOf s := by
  simp [Regs.lenNat, lenOf, BitVec.extractLsb'_toNat]

/-- The bytes CSUM, PARSE and MATCH read are the operand. -/
theorem State.pbufBytes_eq_operand (s : State) :
    s.pbufBytes s.regs.offNat s.regs.lenNat = operand s := by
  rw [Regs.offNat_eq_offOf, Regs.lenNat_eq_lenOf]
  rfl

@[simp] theorem operand_length (s : State) : (operand s).length = lenOf s := by
  simp [operand]

theorem operand_getD {s : State} {i : Nat} (hi : i < lenOf s) (x : Byte) :
    (operand s).getD i x = byteAt s i := by
  simp [operand, List.getD_eq_getElem?_getD, hi]

/-- Two adjacent bytes of the operand. -/
theorem slice_operand_two {s : State} {i : Nat} (hi : i + 2 ≤ lenOf s) :
    slice (operand s) i (i + 2) = [byteAt s i, byteAt s (i + 1)] := by
  refine List.ext_getElem (by simp [slice]; omega) fun k _ hk => ?_
  obtain rfl | rfl : k = 0 ∨ k = 1 := by
    rw [List.length_cons, List.length_singleton] at hk
    omega
  · simp [slice, operand]
  · simp [slice, operand]

/-- A 16-bit field in the host byte order, as R11 writes it. -/
theorem get16_horder (s : State) (b0 b1 : Byte) :
    get16 s.regs.horder [b0, b1] = get2 (bigOf s) b0 b1 := by
  unfold Regs.horder bigOf
  cases s.regs.ctrl.getLsbD 1
  · exact (get16_eq_get2 b0 b1).1
  · exact (get16_eq_get2 b0 b1).2

/-! ### The header -/

/-- A field above another one is their concatenation. -/
theorem setWidth_shiftLeft_or_setWidth {m n : Nat} (w : Nat) (x : BitVec m) (y : BitVec n) :
    (x.setWidth w <<< n) ||| y.setWidth w = (x ++ y).setWidth w := by
  ext i hi
  by_cases hn : i < n
  · simp [hn, BitVec.getLsbD_append]
  · have habove : y.getLsbD i = false := BitVec.getLsbD_of_ge y i (by omega)
    simp [hn, BitVec.getLsbD_append, habove]

/-- Three fields in one word, the form of RXHDR0. -/
theorem setWidth_or_three (h : Half) (c t : Byte) :
    (h.setWidth 32 <<< 16) ||| (c.setWidth 32 <<< 8) ||| t.setWidth 32 = h ++ c ++ t := by
  have hhigh : (h.setWidth 32 <<< 16) ||| (c.setWidth 32 <<< 8) = (h ++ c).setWidth 32 <<< 8 := by
    rw [← setWidth_shiftLeft_or_setWidth, BitVec.shiftLeft_or_distrib, ← BitVec.shiftLeft_add]
  rw [hhigh, setWidth_shiftLeft_or_setWidth, BitVec.setWidth_eq]

theorem header0_operand {s : State} (h : 28 ≤ lenOf s) :
    header0 s.regs.horder (operand s) = (headerRegs s).rxhdr0 := by
  rw [header0, slice_operand_two (i := 22) (by omega), get16_horder, operand_getD (by omega),
    operand_getD (by omega), setWidth_or_three]
  rfl

theorem header1_operand {s : State} (h : 28 ≤ lenOf s) :
    header1 s.regs.horder (operand s) = (headerRegs s).rxhdr1 := by
  rw [header1, slice_operand_two (i := 24) (by omega), slice_operand_two (i := 26) (by omega),
    get16_horder, get16_horder, setWidth_shiftLeft_or_setWidth, BitVec.setWidth_eq]
  rfl

/-- Without room for the timestamp, loading the datagram loads its header. -/
theorem loadRx_operand_of_lt {s : State} (h28 : 28 ≤ lenOf s) (h36 : lenOf s < 36) :
    loadRx s (operand s) = withRegs s (headerRegs s) := by
  have hts : hasTimestamp (operand s) = false := by simpa [hasTimestamp] using h36
  rw [loadRx, loadTimestamp, hts, if_neg nofun, loadHeader, header0_operand h28,
    header1_operand h28]
  rfl

/-! ### The match predicate -/

theorem isMatch_operand_iff {s : State} (h : 28 ≤ lenOf s) :
    isMatch s.regs (operand s) = true ↔ Matches s := by
  rw [isMatch, slice_operand_two (i := 24) (by omega), get16_horder, strictOk,
    operand_getD (by omega), operand_getD (by omega)]
  simp [Matches, replyIdent, identOf, Regs.ident16, strictOf, Regs.strict, and_assoc]

end Sys2Proof.Machine

/-!
PROOFS. What each command leaves in the state, error by error, in the terms of the statements.
-/
namespace Sys2Proof.Machine

open Claims

/-! ### The outcome of a command -/

theorem rangeLen_of_datagram {i : Instr} (hi : i = .parse ∨ i = .matchReply) (s : State) :
    rangeLen s i = some (lenOf s) := by
  obtain rfl | rfl := hi <;> rfl

/-- PARSE and MATCH in one form: PARSE reports what a MATCH whose reply does not match reports. -/
theorem exec_eq_withDatagram {i : Instr} (hi : i = .parse ∨ i = .matchReply) (s : State) :
    exec i s = withDatagram s fun d => .next ((loadRx s d).setStatus
      (matchStatus (decide (i = .matchReply) && isMatch s.regs d) (hasTimestamp d))) := by
  obtain rfl | rfl := hi
  · rfl
  · simp only [decide_true, Bool.true_and]
    rfl

/-- What PARSE and MATCH leave, in the order of the checks (spec/60_exceptions.md R118). -/
theorem exec_datagram_outcome {i : Instr} {s t : State} (hi : i = .parse ∨ i = .matchReply)
    (h : exec i s = .next t) :
    (s.cfg.bufSize < offOf s + lenOf s ∧ t = s.raise .bounds) ∨
    (InRange s (lenOf s) ∧ lenOf s < 28 ∧ t = s.raise .decodeError) ∨
    (InRange s (lenOf s) ∧ 28 ≤ lenOf s ∧ t = (loadRx s (operand s)).setStatus
      (matchStatus (decide (i = .matchReply ∧ Matches s)) (decide (36 ≤ lenOf s)))) := by
  rw [exec_eq_withDatagram hi, withDatagram_cases, State.pbufBytes_eq_operand,
    Regs.offNat_eq_offOf, Regs.lenNat_eq_lenOf] at h
  split at h
  · next hlt =>
    cases h
    exact .inl ⟨hlt, rfl⟩
  · next hge =>
    have hin : InRange s (lenOf s) := Nat.le_of_not_lt hge
    split at h <;> cases h
    · next hshort => exact .inr (.inl ⟨hin, hshort, rfl⟩)
    · next hlong =>
      have h28 : 28 ≤ lenOf s := Nat.le_of_not_lt hlong
      refine .inr (.inr ⟨hin, h28, ?_⟩)
      have hmatch : isMatch s.regs (operand s) = decide (Matches s) := by
        rw [Bool.eq_iff_iff, isMatch_operand_iff h28, decide_eq_true_iff]
      rw [hmatch, hasTimestamp, operand_length, Bool.decide_and (i = .matchReply) (Matches s)]

/-- What a command which answers a next state did, and when: the form of `exec_inversion` that says
which error was raised and which STATUS a datagram got. -/
theorem exec_outcome {i : Instr} {s t : State} (h : exec i s = .next t) :
    (i = .nop ∧ t = s) ∨
    (∃ n, rangeLen s i = some n ∧ s.cfg.bufSize < offOf s + n ∧ t = s.raise .bounds) ∨
    ((i = .parse ∨ i = .matchReply) ∧ InRange s (lenOf s) ∧ lenOf s < 28 ∧
      t = s.raise .decodeError) ∨
    (i = .csum ∧ InRange s (lenOf s) ∧
      t = (s.setResult (checksum (operand s))).setStatus 0x00000000#32) ∨
    (i = .encode ∧ InRange s 16 ∧
      t = ((s.setPbuf (Memory.putAll s.pbuf (offOf s) s.regs.packet)).setResult
        s.regs.slot).setStatus 0x00000000#32) ∨
    ((i = .parse ∨ i = .matchReply) ∧ InRange s (lenOf s) ∧ 28 ≤ lenOf s ∧
      t = (loadRx s (operand s)).setStatus
        (matchStatus (decide (i = .matchReply ∧ Matches s)) (decide (36 ≤ lenOf s)))) := by
  by_cases hi : i = .parse ∨ i = .matchReply
  · obtain ⟨hlt, ht⟩ | ⟨hin, hshort, ht⟩ | ⟨hin, h28, ht⟩ := exec_datagram_outcome hi h
    · exact .inr (.inl ⟨_, rangeLen_of_datagram hi s, hlt, ht⟩)
    · exact .inr (.inr (.inl ⟨hi, hin, hshort, ht⟩))
    · exact .inr (.inr (.inr (.inr (.inr ⟨hi, hin, h28, ht⟩))))
  cases i with
  | nop =>
    cases h
    exact .inl ⟨rfl, rfl⟩
  | csum =>
    change execCsum s = _ at h
    rw [execCsum_cases, State.pbufBytes_eq_operand, Regs.offNat_eq_offOf,
      Regs.lenNat_eq_lenOf] at h
    split at h <;> cases h
    · next hlt => exact .inr (.inl ⟨_, rfl, hlt, rfl⟩)
    · next hge => exact .inr (.inr (.inr (.inl ⟨rfl, Nat.le_of_not_lt hge, rfl⟩)))
  | encode =>
    change execEncode s = _ at h
    rw [execEncode_cases, Regs.offNat_eq_offOf] at h
    split at h <;> cases h
    · next hlt => exact .inr (.inl ⟨_, rfl, hlt, rfl⟩)
    · next hge => exact .inr (.inr (.inr (.inr (.inl ⟨rfl, Nat.le_of_not_lt hge, rfl⟩))))
  | parse => exact absurd (.inl rfl) hi
  | matchReply => exact absurd (.inr rfl) hi

/-! ### What loading a datagram leaves -/

/-- The registers PARSE and MATCH read are left by what they load. -/
theorem loadRx_operands (s : State) (d : List Byte) :
    (loadRx s d).regs.ctrl = s.regs.ctrl ∧ (loadRx s d).regs.ident = s.regs.ident ∧
      (loadRx s d).regs.seq = s.regs.seq ∧ (loadRx s d).regs.txtsLo = s.regs.txtsLo ∧
      (loadRx s d).regs.txtsHi = s.regs.txtsHi ∧ (loadRx s d).regs.off = s.regs.off ∧
      (loadRx s d).regs.len = s.regs.len := by
  rw [loadRx_regs]
  split <;> simp

@[simp] theorem loadRx_result (s : State) (d : List Byte) :
    (loadRx s d).regs.result = s.regs.result := by
  rw [loadRx_regs]
  split <;> rfl

/-- A zero-extended 16-bit value, the form of RESULT. -/
theorem setWidth_upper_half (v : Half) : (v.setWidth 32).extractLsb' 16 16 = 0#16 := by
  ext k hk
  simp

/-- A datagram without a timestamp leaves RXTS. -/
theorem loadRx_rxts_of_lt {s : State} {d : List Byte} (h : d.length < 36) :
    (loadRx s d).regs.rxtsLo = s.regs.rxtsLo ∧ (loadRx s d).regs.rxtsHi = s.regs.rxtsHi := by
  rw [loadRx_regs, if_neg (by omega)]
  exact ⟨rfl, rfl⟩

/-! ### STATUS -/

/-- PARSE or MATCH had a datagram to load: in range, and with room for the header. -/
abbrev LoadsDatagram (i : Instr) (s : State) : Prop :=
  (i = .parse ∨ i = .matchReply) ∧ InRange s (lenOf s) ∧ 28 ≤ lenOf s

/-- STATUS after a command other than NOP: what the datagram gave, or a code with no validity bit. -/
theorem exec_status {i : Instr} {s t : State} (hnop : i ≠ .nop) (h : exec i s = .next t) :
    (LoadsDatagram i s ∧ t.regs.status =
      matchStatus (decide (i = .matchReply ∧ Matches s)) (decide (36 ≤ lenOf s))) ∨
    (¬ LoadsDatagram i s ∧ ∃ e, t.regs.status = statusWord e false false false) := by
  obtain ⟨hi, -⟩ | ⟨n, hn, hlt, rfl⟩ | ⟨-, -, hshort, rfl⟩ | ⟨rfl, -, rfl⟩ | ⟨rfl, -, rfl⟩ |
      ⟨hi, hin, h28, rfl⟩ := exec_outcome h
  · exact absurd hi hnop
  · refine .inr ⟨?_, .bounds, rfl⟩
    rintro ⟨hi, hin, -⟩
    cases hn.symm.trans (rangeLen_of_datagram hi s)
    exact absurd hlt (Nat.not_lt_of_le hin)
  · exact .inr ⟨fun ⟨_, _, h28⟩ => absurd hshort (Nat.not_lt_of_le h28), .decodeError, rfl⟩
  · exact .inr ⟨by simp [LoadsDatagram], .none, rfl⟩
  · exact .inr ⟨by simp [LoadsDatagram], .none, rfl⟩
  · exact .inl ⟨⟨hi, hin, h28⟩, rfl⟩

theorem statusWord_bits (e : ErrCode) (h t m : Bool) :
    (statusWord e h t m).getLsbD 4 = h ∧ (statusWord e h t m).getLsbD 5 = t ∧
      (statusWord e h t m).getLsbD 6 = m := by
  cases e <;> cases h <;> cases t <;> cases m <;> decide

/-- A loaded datagram sets HVALID; TSVALID and MATCH need the timestamp. -/
theorem matchStatus_bits (isM hasTs : Bool) :
    (matchStatus isM hasTs).getLsbD 4 = true ∧ (matchStatus isM hasTs).getLsbD 5 = hasTs ∧
      (matchStatus isM hasTs).getLsbD 6 = (isM && hasTs) := by
  cases isM <;> cases hasTs <;> decide

/-- ERR is at most 3 and the reserved bits are zero in every listed value. -/
theorem statusValues_fields : ∀ v ∈ statusValues,
    (v.extractLsb' 0 4).toNat ≤ 3 ∧ v.extractLsb' 7 25 = 0#25 := by
  simp [statusValues]

/-- The only error of a loaded datagram: it matched, and its timestamp is missing. -/
theorem matchStatus_err {isM hasTs : Bool} (h : (matchStatus isM hasTs).extractLsb' 0 4 ≠ 0#4) :
    isM = true ∧ hasTs = false := by
  cases isM <;> cases hasTs <;> revert h <;> decide

end Sys2Proof.Machine

/-!
PROOFS. A 32-bit host access to the register block: one rule for a read and one for a write of each
kind of offset, as the step that serves it.
-/
namespace Sys2Proof.Machine

open Claims

theorem step_of_access {s : State} {a : Transaction} {rest : List Event}
    (h : s.inbox = .access a :: rest) : step s = serveAccess a (taken s rest) :=
  step_of_cons h

/-! ### Registers -/

theorem step_readReg {s : State} {rest : List Event} {o : Nat} {v : Word}
    (h : s.inbox = .access ⟨.read, .w32, o, v⟩ :: rest) (r : RegName) (ho : o = r.offset) :
    step s = .next (readBack s rest (s.readReg r)) := by
  subst ho
  rw [step_of_access h, serveAccess, target_reg]
  cases r <;> rfl

theorem step_writeReg {s : State} {rest : List Event} {o : Nat} {v : Word}
    (h : s.inbox = .access ⟨.write, .w32, o, v⟩ :: rest) (r : RegName) (ho : o = r.offset) :
    step s = (taken s rest).regWrite r v := by
  subst ho
  rw [step_of_access h, serveAccess, target_reg]

/-- A write to a register other than CMD starts no command. -/
theorem State.regWrite_of_ne_cmd {r : RegName} (hr : r ≠ .cmd) (s : State) (v : Word) :
    s.regWrite r v = if s.rst then .next s else .next (withRegs s (s.regs.hostWrite v r)) := by
  rw [State.regWrite, if_neg hr]
  rfl

/-- With the reset input released a write to a register other than CMD is the host's write alone. -/
theorem step_hostWrite {s : State} {rest : List Event} {o : Nat} {v : Word}
    (h : s.inbox = .access ⟨.write, .w32, o, v⟩ :: rest) (hrel : s.rst = false) (r : RegName)
    (hr : r ≠ .cmd) (ho : o = r.offset) :
    step s = .next (withRegs (taken s rest) (s.regs.hostWrite v r)) := by
  have hrst : (taken s rest).rst = false := hrel
  rw [step_writeReg h r ho, State.regWrite_of_ne_cmd hr, hrst]
  rfl

/-- STATUS and every register after it in the map are read-only (spec/10_state.md R38). -/
theorem Regs.hostWrite_of_readOnly {n : RegName} (h : RegName.status.offset ≤ n.offset) (r : Regs)
    (v : Word) : r.hostWrite v n = r := by
  cases n <;> simp [RegName.offset, Regs.hostWrite] at h ⊢

/-- A write to a read-only register changes nothing, whatever the level of the reset input. -/
theorem step_write_readOnly {s : State} {rest : List Event} {o : Nat} {v : Word}
    (h : s.inbox = .access ⟨.write, .w32, o, v⟩ :: rest) (r : RegName)
    (hr : RegName.status.offset ≤ r.offset) (ho : o = r.offset) : step s = .next (taken s rest) := by
  have hcmd : r ≠ .cmd := by
    rintro rfl
    exact absurd hr (by decide)
  rw [step_writeReg h r ho, State.regWrite_of_ne_cmd hcmd, Regs.hostWrite_of_readOnly hr]
  exact ite_self _

/-- INFO holds every legal BUF_SIZE (spec/10_state.md R36). -/
theorem Params.info_toNat {p : Params} (h : p.wf = true) : (Params.info p).toNat = p.bufSize := by
  have hle : p.bufSize ≤ 4096 := by
    simp only [Params.wf, Bool.and_eq_true, decide_eq_true_eq] at h
    exact h.2
  rw [Params.info, BitVec.toNat_setWidth, BitVec.toNat_ofNat]
  omega

/-! ### Offsets with no register -/

theorem RegName.offset_le_info (r : RegName) : r.offset ≤ 0x038 := by cases r <;> decide

/-- No register stands at or above 0x03C (spec/10_state.md R37). -/
theorem target_unmapped {d : Dir} {o : Nat} {v : Word} (hlo : 0x03C ≤ o) (hhi : o < 0x1000)
    (hal : o % 4 = 0) : target ⟨d, .w32, o, v⟩ = .ok .unmapped := by
  have hwf : Transaction.wf ⟨d, .w32, o, v⟩ = true := by simp [Transaction.wf, hhi, hal]
  obtain ⟨g, hg⟩ := (target_ok_iff_wf _).2 hwf
  obtain ⟨r, -, ho⟩ | ⟨rfl, -⟩ | ⟨-, hwin, -⟩ := target_cases hg
  · have hle : o ≤ 0x038 := ho.trans_le r.offset_le_info
    omega
  · exact hg
  · exact absurd hwin (Nat.not_le_of_lt hhi)

theorem step_read_unmapped {s : State} {rest : List Event} {o : Nat} {v : Word}
    (h : s.inbox = .access ⟨.read, .w32, o, v⟩ :: rest) (hlo : 0x03C ≤ o) (hhi : o < 0x1000)
    (hal : o % 4 = 0) : step s = .next (readBack s rest 0x00000000#32) := by
  rw [step_of_access h, serveAccess, target_unmapped hlo hhi hal]
  rfl

theorem step_write_unmapped {s : State} {rest : List Event} {o : Nat} {v : Word}
    (h : s.inbox = .access ⟨.write, .w32, o, v⟩ :: rest) (hlo : 0x03C ≤ o) (hhi : o < 0x1000)
    (hal : o % 4 = 0) : step s = .next (taken s rest) := by
  rw [step_of_access h, serveAccess, target_unmapped hlo hhi hal]

end Sys2Proof.Machine

/-!
PROOFS. The statements of spec/10_state.md on what a command may change and on the host's
register accesses.
-/
namespace Sys2Proof.Proofs

open Sys2Proof.Machine Sys2Proof.Claims

/-! ### What a command may change -/

/-- Settles O17: a command writes STATUS, RESULT, the RX registers and PBUF at most. -/
theorem commandsKeepOperandsAndPort : Obligations.CommandsKeepOperandsAndPort := by
  intro i s t h
  obtain ⟨-, rfl⟩ | ⟨-, e, rfl⟩ | ⟨-, -, rfl⟩ | ⟨-, -, rfl⟩ | ⟨-, -, -, v, -, rfl⟩ :=
    exec_inversion h
  · simp [SameRest]
  · simp [SameRest]
  · simp [SameRest]
  · simp [SameRest]
  · simp [SameRest, loadRx_operands, loadRx_frame]

/-- Settles O19: of the outcomes that touch RESULT each is a success of CSUM or ENCODE, and what they
write is a zero-extended 16-bit value. -/
theorem onlyCsumAndEncodeWriteResult : Obligations.OnlyCsumAndEncodeWriteResult := by
  intro i s t h
  obtain ⟨rfl, rfl⟩ | ⟨-, -, -, rfl⟩ | ⟨hi, -, -, rfl⟩ | ⟨rfl, -, rfl⟩ | ⟨rfl, -, rfl⟩ |
      ⟨hi, -, -, rfl⟩ := exec_outcome h
  · simp
  · have hbounds : statusWord .bounds false false false ≠ 0x00000000#32 := by decide
    simp [hbounds]
  · obtain rfl | rfl := hi <;> simp
  · simp [setWidth_upper_half]
  · simp [setWidth_upper_half]
  · obtain rfl | rfl := hi <;> simp

/-- Settles O20: the only outcome that touches the RX registers loads a datagram of 28 bytes or more,
and it leaves RXTS when there are fewer than 36. -/
theorem onlyDatagramCommandsWriteRx : Obligations.OnlyDatagramCommandsWriteRx := by
  intro i s t h
  obtain ⟨-, rfl⟩ | ⟨-, -, -, rfl⟩ | ⟨-, -, -, rfl⟩ | ⟨-, -, rfl⟩ | ⟨-, -, rfl⟩ |
      ⟨hi, -, h28, rfl⟩ := exec_outcome h
  · simp
  · simp
  · simp
  · simp
  · simp
  · refine ⟨fun _ => ⟨hi, h28⟩, fun hts => ⟨hi, ?_⟩⟩
    by_contra hlt
    obtain ⟨hlo, hhi⟩ := loadRx_rxts_of_lt (s := s) (d := operand s) (by simpa using hlt)
    simp [hlo, hhi] at hts

/-- Settles O21: a loaded datagram sets the bits as `matchStatus` says, and every other outcome is a
code with none of them. -/
theorem statusBitsSayWhatTheyMean : Obligations.StatusBitsSayWhatTheyMean := by
  intro i s t hnop h
  obtain ⟨⟨hi, hin, h28⟩, hst⟩ | ⟨hno, e, hst⟩ := exec_status hnop h
  · obtain ⟨hvalid, tsvalid, matched⟩ :=
      matchStatus_bits (decide (i = .matchReply ∧ Matches s)) (decide (36 ≤ lenOf s))
    rw [hst, hvalid, tsvalid, matched]
    refine ⟨by simp [hi, hin, h28], by simp [hi, hin], ?_⟩
    simp only [Bool.and_eq_true, decide_eq_true_eq, hin]
    tauto
  · obtain ⟨hvalid, tsvalid, matched⟩ := statusWord_bits e false false false
    rw [hst, hvalid, tsvalid, matched]
    refine ⟨iff_of_false nofun hno, iff_of_false nofun ?_, iff_of_false nofun ?_⟩
    · rintro ⟨hi, hin, h36⟩
      exact hno ⟨hi, hin, by omega⟩
    · rintro ⟨hi, hin, h36, -⟩
      exact hno ⟨.inr hi, hin, by omega⟩

/-- Settles O22: NOP changes nothing; the STATUS of every other outcome is in the list. -/
theorem statusTakesAListedValue : Obligations.StatusTakesAListedValue := by
  intro i s t h
  refine ⟨?_, fun hnop => ?_⟩
  · rintro rfl
    cases h
    rfl
  · have hmem : t.regs.status ∈ statusValues := by
      obtain ⟨-, hst⟩ | ⟨-, e, hst⟩ := exec_status hnop h <;> rw [hst]
      · exact matchStatus_mem_statusValues _ _
      · exact statusWord_mem_statusValues e
    exact ⟨hmem, statusValues_fields _ hmem⟩

/-- Settles O23: BOUNDS and a datagram too short go through `raise`; a success has ERR 0; what is left
is a MATCH without a timestamp. -/
theorem errorsChangeStatusOnly : Obligations.ErrorsChangeStatusOnly := by
  intro i s t hnop h herr
  obtain ⟨hi, -⟩ | ⟨-, -, -, rfl⟩ | ⟨-, -, -, rfl⟩ | ⟨-, -, rfl⟩ | ⟨-, -, rfl⟩ |
      ⟨-, -, h28, rfl⟩ := exec_outcome h
  · exact absurd hi hnop
  · exact .inl rfl
  · exact .inl rfl
  · exact absurd rfl herr
  · exact absurd rfl herr
  · obtain ⟨hmatch, hts⟩ := matchStatus_err herr
    have hlt : lenOf s < 36 := by simpa using hts
    obtain ⟨hi, -⟩ := of_decide_eq_true hmatch
    rw [hmatch, hts, loadRx_operand_of_lt h28 hlt]
    exact .inr ⟨hi, rfl, rfl⟩

/-! ### Register accesses -/

/-- Settles O32: the host's write, register by register. -/
theorem hostWritesOperandRegisters : Obligations.HostWritesOperandRegisters :=
  fun _ _ _ _ h hrel =>
    ⟨step_hostWrite h hrel .ctrl nofun, step_hostWrite h hrel .ident nofun,
      step_hostWrite h hrel .seq nofun, step_hostWrite h hrel .txtsLo nofun,
      step_hostWrite h hrel .txtsHi nofun, step_hostWrite h hrel .off nofun,
      step_hostWrite h hrel .len nofun⟩

/-- Settles O33: the host's read, register by register; a legal BUF_SIZE fits in INFO. -/
theorem hostReadsEveryRegister : Obligations.HostReadsEveryRegister :=
  fun _ _ _ _ h =>
    ⟨step_readReg h .ctrl, step_readReg h .ident, step_readReg h .seq, step_readReg h .txtsLo,
      step_readReg h .txtsHi, step_readReg h .off, step_readReg h .len, step_readReg h .cmd,
      step_readReg h .status, step_readReg h .result, step_readReg h .rxhdr0,
      step_readReg h .rxhdr1, step_readReg h .rxtsLo, step_readReg h .rxtsHi,
      fun ho hwf => ⟨_, step_readReg h .info ho, Params.info_toNat hwf⟩⟩

/-- Settles O34: no register stands from 0x03C on, and those from STATUS on are read-only. -/
theorem unmappedAndReadOnlyIgnoreWrites : Obligations.UnmappedAndReadOnlyIgnoreWrites := by
  intro s rest o v
  refine ⟨fun hlo hhi hal => ⟨fun h => step_read_unmapped h hlo hhi hal,
    fun h => step_write_unmapped h hlo hhi hal⟩, fun hmem h => ?_⟩
  have hmap : ∀ x ∈ [0x020, 0x024, 0x028, 0x02C, 0x030, 0x034, 0x038], ∃ p ∈ regMap,
      RegName.status.offset ≤ p.2.offset ∧ x = p.2.offset := by decide
  obtain ⟨⟨_, r⟩, -, hr, ho⟩ := hmap o hmem
  exact step_write_readOnly h r hr ho

end Sys2Proof.Proofs

/-!
PROOFS. The host port as a whole: which accesses are refused, that nothing faults, what the inbox holds
after a step, and the access at a bus address.
-/
namespace Sys2Proof.Machine

open Claims

/-! ### What is refused -/

/-- The accesses that are not well-formed are those of spec/20_memory.md R45. -/
theorem Transaction.wf_eq_false_iff (a : Transaction) : a.wf = false ↔ RefusedAccess a := by
  unfold Transaction.wf RefusedAccess
  by_cases hreg : a.offset < 0x1000
  · by_cases hw : a.width = .w32
    · simp [hreg, hw]
      omega
    · simp [hreg, hw]
  · simp only [if_neg hreg, Bool.and_eq_false_iff, decide_eq_false_iff_not]
    omega

/-- Every command answers a next state: the range is checked before PBUF is touched
(spec/20_memory.md R41). -/
theorem exec_completes (i : Instr) (s : State) : ∃ t, exec i s = .next t := by
  cases i with
  | nop => exact ⟨s, rfl⟩
  | csum =>
    change ∃ t, execCsum s = .next t
    rw [execCsum_cases]
    split <;> exact ⟨_, rfl⟩
  | encode =>
    change ∃ t, execEncode s = .next t
    rw [execEncode_cases]
    split <;> exact ⟨_, rfl⟩
  | parse =>
    rw [exec_eq_withDatagram (.inl rfl), withDatagram_cases]
    split_ifs <;> exact ⟨_, rfl⟩
  | matchReply =>
    rw [exec_eq_withDatagram (.inr rfl), withDatagram_cases]
    split_ifs <;> exact ⟨_, rfl⟩

theorem runCmd_completes (w : Word) (s : State) : ∃ t, runCmd w s = .next t := by
  unfold runCmd
  cases decode w with
  | cmd i => exact exec_completes i s
  | illegal why => exact ⟨_, rfl⟩

/-- A host access is refused when R45 says so and completes otherwise. -/
theorem serveAccess_outcome (a : Transaction) (s : State) :
    (RefusedAccess a ∧ ∃ r, serveAccess a s = .refused r) ∨
    (¬ RefusedAccess a ∧ ∃ t, serveAccess a s = .next t) := by
  rw [← a.wf_eq_false_iff, Bool.not_eq_false]
  obtain hrefused | ⟨hwf, -, v, h⟩ | ⟨hwf, -, -, h⟩ | ⟨hwf, -, -, -, h⟩ | ⟨hwf, -, -, r, -, -, h⟩ |
      ⟨hwf, -, -, -, h⟩ := serveAccess_inversion a s
  · exact .inl hrefused
  · exact .inr ⟨hwf, _, h⟩
  · exact .inr ⟨hwf, _, h⟩
  · exact .inr ⟨hwf, h ▸ runCmd_completes a.data s⟩
  · exact .inr ⟨hwf, _, h⟩
  · exact .inr ⟨hwf, _, h⟩

theorem serveAccess_refused_iff (a : Transaction) (s : State) :
    (∃ r, serveAccess a s = .refused r) ↔ RefusedAccess a := by
  obtain ⟨hr, hex⟩ | ⟨hr, t, ht⟩ := serveAccess_outcome a s
  · exact iff_of_true hex hr
  · simp [ht, hr]

/-- An event is served, or it is a host access and is refused. -/
theorem serve_outcome (e : Event) (s : State) :
    (∃ t, serve e s = .next t) ∨
    ((∃ r, serve e s = .refused r) ∧
      ((∃ a, e = .access a) ∨ ∃ d w x v, e = .busAccess d w x v)) := by
  cases e with
  | access a =>
    obtain ⟨-, hr⟩ | ⟨-, ht⟩ := serveAccess_outcome a s
    · exact .inr ⟨hr, .inl ⟨a, rfl⟩⟩
    · exact .inl ht
  | busAccess d w x v =>
    simp only [serve]
    split
    · exact .inr ⟨⟨_, rfl⟩, .inr ⟨d, w, x, v, rfl⟩⟩
    · obtain ⟨-, hr⟩ | ⟨-, ht⟩ := serveAccess_outcome ⟨d, w, x - s.cfg.base, v⟩ s
      · exact .inr ⟨hr, .inr ⟨d, w, x, v, rfl⟩⟩
      · exact .inl ht
  | rst level => cases level <;> exact .inl ⟨_, rfl⟩
  | rstDuringCmd w => exact .inl ⟨_, rfl⟩

theorem step_ne_fault (s : State) (r : Fault) : step s ≠ .fault r := by
  cases hi : s.inbox with
  | nil => simp [step, serveNext, hi]
  | cons e rest =>
    rw [step_of_cons hi]
    obtain ⟨t, ht⟩ | ⟨⟨r', hr'⟩, -⟩ := serve_outcome e (s.accept rest)
    · simp [ht]
    · simp [hr']

/-! ### The bus address -/

/-- The access at `BASE + o` is the access at offset `o` (spec/20_memory.md R49). -/
theorem serve_busAccess_base_add (s : State) (d : Dir) (w : Width) (o : Nat) (v : Word) :
    serve (.busAccess d w (s.cfg.base + o) v) s = serve (.access ⟨d, w, o, v⟩) s := by
  simp [serve]

/-! ### The inbox -/

theorem exec_inbox {i : Instr} {s t : State} (h : exec i s = .next t) : t.inbox = s.inbox := by
  obtain ⟨-, -, -, -, -, -, -, hrest⟩ := Proofs.commandsKeepOperandsAndPort i s t h
  obtain ⟨-, -, -, hinbox, -⟩ := hrest
  exact hinbox

theorem runCmd_inbox {w : Word} {s t : State} (h : runCmd w s = .next t) : t.inbox = s.inbox := by
  obtain ⟨i, -, h⟩ | ⟨-, -, rfl⟩ := runCmd_inversion h
  · exact exec_inbox h
  · rfl

theorem serveAccess_inbox {a : Transaction} {s t : State} (h : serveAccess a s = .next t) :
    t.inbox = s.inbox := by
  obtain ⟨-, v, rfl⟩ | ⟨-, -, rfl⟩ | ⟨-, -, -, h⟩ | ⟨-, -, r, -, -, rfl⟩ | ⟨-, -, -, rfl⟩ :=
    serveAccess_next h
  · rfl
  · rfl
  · exact runCmd_inbox h
  · rfl
  · rfl

theorem State.resetDuringCmd_inbox (s : State) (w : Word) :
    (s.resetDuringCmd w).inbox = s.inbox := by
  obtain heq | ⟨-, -, -, heq⟩ := s.resetDuringCmd_cases w <;> rw [heq] <;> rfl

/-- A step takes one event from the inbox and adds none. -/
theorem step_inbox {s t : State} (h : step s = .next t) : t.inbox = s.inbox.tail := by
  obtain ⟨hi, rfl⟩ | ⟨e, rest, hi, hserved⟩ := step_next h
  · rw [hi, List.tail_nil]
  · rw [hi, List.tail_cons]
    obtain ⟨a, -, ha⟩ | ⟨-, rfl⟩ | ⟨-, rfl⟩ | ⟨w, -, rfl⟩ := hserved
    · exact serveAccess_inbox ha
    · rfl
    · exact State.releaseReset_inbox _
    · exact State.resetDuringCmd_inbox _ w

end Sys2Proof.Machine

/-!
PROOFS. The bytes of PBUF: the lanes of a window access, and what can change a byte.
-/
namespace Sys2Proof.Machine

open Claims

/-! ### The lanes of a window access -/

/-- Byte `k` of a joined value is the `k`-th byte joined, zero where there is none. -/
theorem extractLsb'_joinBytes {w k : Nat} (hk : 8 * k + 8 ≤ w) (d : List Byte) :
    (joinBytes w d).extractLsb' (8 * k) 8 = d.getD k 0#8 := by
  induction d generalizing k with
  | nil => simp [joinBytes]
  | cons b r ih =>
    rw [joinBytes_cons b (BitVec.setWidth_eq (joinBytes w r)).symm]
    cases k with
    | zero =>
      ext i hi
      simp [BitVec.getLsbD_append, hi, show i < w by omega]
    | succ k =>
      rw [List.getD_cons_succ, ← ih (by omega)]
      ext i hi
      simp [BitVec.getLsbD_append, show 8 * (k + 1) + i < w by omega,
        show ¬ 8 * (k + 1) + i < 8 by omega, show 8 * (k + 1) + i - 8 = 8 * k + i by omega]

/-- Lane `k` of a window read (spec/20_memory.md R42, R43). -/
theorem State.windowRead_lane (s : State) (a n : Nat) {k : Nat} (hk : k < 4) :
    (s.windowRead a n).extractLsb' (8 * k) 8 =
      if k < n ∧ a + k < s.cfg.bufSize then s.pbufByte (a + k) else 0x00#8 := by
  rw [State.windowRead, extractLsb'_joinBytes (by omega)]
  by_cases hn : k < n
  · simp [List.getD_eq_getElem?_getD, hn, State.windowByte]
  · simp [List.getD_eq_getElem?_getD, hn]

/-- PBUF after a window write: the lanes below BUF_SIZE are new (spec/20_memory.md R42, R43). -/
theorem State.pbufByte_windowWrite (s : State) (a n : Nat) (v : Word) (y : Nat) :
    (s.windowWrite a n v).pbufByte y =
      if a ≤ y ∧ y < a + n ∧ y < s.cfg.bufSize then v.extractLsb' (8 * (y - a)) 8
      else s.pbufByte y := by
  simp only [State.pbufByte, State.windowWrite, State.setPbuf_pbuf, Memory.get_putBelow,
    splitBytes_length]
  split
  · next h => simp [splitBytes_eq_map, show y - a < n by omega]
  · rfl

/-- An aligned access at window index `a` addresses PBUF byte `a`. -/
theorem target_window_index (d : Dir) {w : Width} {a : Nat} (v : Word) (ha : a < 0x1000)
    (hal : a % w.bytes = 0) : target ⟨d, w, 0x1000 + a, v⟩ = .ok (.window a) := by
  have hmod : (0x1000 + a) % w.bytes = 0 := by
    cases w <;> simp only [Width.bytes] at hal ⊢ <;> omega
  rw [target_window (by simp) (by simp; omega) hmod]
  simp

theorem step_windowWrite {s : State} {rest : List Event} {w : Width} {a : Nat} {v : Word}
    (h : s.inbox = .access ⟨.write, w, 0x1000 + a, v⟩ :: rest) (ha : a < 0x1000)
    (hal : a % w.bytes = 0) : step s = .next ((taken s rest).windowWrite a w.bytes v) := by
  rw [step_of_access h, serveAccess, target_window_index .write v ha hal]

theorem step_windowRead {s : State} {rest : List Event} {w : Width} {a : Nat} {v : Word}
    (h : s.inbox = .access ⟨.read, w, 0x1000 + a, v⟩ :: rest) (ha : a < 0x1000)
    (hal : a % w.bytes = 0) : step s = .next (readBack s rest (s.windowRead a w.bytes)) := by
  rw [step_of_access h, serveAccess, target_window_index .read v ha hal]
  rfl

/-! ### What can change a byte -/

/-- A byte of PBUF is read from PBUF alone. -/
theorem State.pbufByte_congr {s t : State} (h : t.pbuf = s.pbuf) (a : Nat) :
    t.pbufByte a = s.pbufByte a := by
  rw [State.pbufByte, State.pbufByte, h]

/-- With RSV zero the word is OP alone (spec/30_encoding.md R57). -/
theorem eq_setWidth_opField {w : Word} (h : rsvField w = 0) : w = (opField w).setWidth 32 := by
  have hrsv : (rsvField w).toNat = 0 := by simp [h]
  have hlt : w.toNat < 2 ^ 32 := w.isLt
  refine BitVec.eq_of_toNat_eq ?_
  simp only [rsvField, opField, BitVec.extractLsb'_toNat, BitVec.toNat_setWidth,
    Nat.shiftRight_eq_div_pow] at hrsv ⊢
  omega

/-- A word that decodes to a command is that command's word. -/
theorem eq_encode_of_decode {w : Word} {i : Instr} (h : decode w = .cmd i) : w = encode i := by
  have hop (op : BitVec 4) : decodeOp op = .cmd i → op.setWidth 32 = encode i := by
    cases i <;> revert op <;> decide
  unfold decode at h
  split at h
  · next hrsv => exact (eq_setWidth_opField hrsv).trans (hop _ h)
  · cases h

/-- Of the commands only an ENCODE in range changes a byte, in its 16 bytes (spec/42_encoder.md R90). -/
theorem exec_pbufByte {i : Instr} {s t : State} {a : Nat} (h : exec i s = .next t)
    (hne : t.pbufByte a ≠ s.pbufByte a) :
    i = .encode ∧ InRange s 16 ∧ offOf s ≤ a ∧ a < offOf s + 16 := by
  obtain ⟨-, rfl⟩ | ⟨-, e, rfl⟩ | ⟨-, -, rfl⟩ | ⟨hi, hin, rfl⟩ | ⟨-, -, -, v, -, rfl⟩ :=
    exec_inversion h
  · exact absurd rfl hne
  · exact absurd rfl hne
  · exact absurd rfl hne
  · rw [Regs.offNat_eq_offOf] at hin hne
    refine ⟨hi, hin, ?_⟩
    by_contra hout
    refine hne ?_
    rw [State.setStatus_pbufByte, State.setResult_pbufByte, State.pbufByte_putAll,
      Regs.packet_length, if_neg hout]
  · obtain ⟨-, hpbuf, -⟩ := loadRx_frame s (s.pbufBytes s.regs.offNat s.regs.lenNat)
    exact absurd (State.pbufByte_congr hpbuf a) hne

theorem runCmd_pbufByte {w : Word} {s t : State} {a : Nat} (h : runCmd w s = .next t)
    (hne : t.pbufByte a ≠ s.pbufByte a) :
    w = 0x00000002#32 ∧ InRange s 16 ∧ offOf s ≤ a ∧ a < offOf s + 16 := by
  obtain ⟨i, hd, h⟩ | ⟨-, -, rfl⟩ := runCmd_inversion h
  · obtain ⟨rfl, hrange⟩ := exec_pbufByte h hne
    exact ⟨eq_encode_of_decode hd, hrange⟩
  · exact absurd rfl hne

/-- A host access changes a byte by a window write that covers it, or by an ENCODE it starts. -/
theorem serveAccess_pbufByte {c : Transaction} {s t : State} {a : Nat}
    (h : serveAccess c s = .next t) (hne : t.pbufByte a ≠ s.pbufByte a) :
    c.dir = .write ∧ a < s.cfg.bufSize ∧
      ((c.offset ≤ 0x1000 + a ∧ 0x1000 + a < c.offset + c.width.bytes) ∨
       (c.offset = 0x01C ∧ c.data = 0x00000002#32 ∧ s.rst = false ∧ offOf s ≤ a ∧
        a < offOf s + 16)) := by
  obtain ⟨-, v, rfl⟩ | ⟨-, -, rfl⟩ | ⟨hd, hrel, ho, h⟩ | ⟨-, -, r, -, -, rfl⟩ |
      ⟨hd, hlo, -, rfl⟩ := serveAccess_next h
  · exact absurd rfl hne
  · exact absurd rfl hne
  · obtain ⟨hdata, hin, hle, hlt⟩ := runCmd_pbufByte h hne
    exact ⟨hd, by omega, .inr ⟨ho, hdata, hrel, hle, hlt⟩⟩
  · exact absurd rfl hne
  · have hcovers : c.offset - 0x1000 ≤ a ∧ a < c.offset - 0x1000 + c.width.bytes ∧
        a < s.cfg.bufSize := by
      by_contra hout
      exact hne (by rw [State.pbufByte_windowWrite, if_neg hout])
    obtain ⟨hle, hlt, hsize⟩ := hcovers
    exact ⟨hd, hsize, .inl (by omega)⟩

/-- A reset during a CMD write changes a byte only if it interrupts an ENCODE in range that covers it
(spec/70_reset_and_hazards.md R133). -/
theorem State.resetDuringCmd_pbufByte {s : State} {w : Word} {a : Nat}
    (hne : (s.resetDuringCmd w).pbufByte a ≠ s.pbufByte a) :
    w = 0x00000002#32 ∧ s.rst = false ∧ InRange s 16 ∧ offOf s ≤ a ∧ a < offOf s + 16 := by
  obtain heq | ⟨hrel, hd, hin, heq⟩ := s.resetDuringCmd_cases w <;> rw [heq] at hne
  · exact absurd rfl hne
  · rw [Regs.offNat_eq_offOf] at hin hne
    refine ⟨eq_encode_of_decode hd, hrel, hin, ?_⟩
    by_contra hout
    refine hne ?_
    rw [State.pbufByte, Memory.get_putDrawn, Regs.packet_length, if_neg (by omega), State.pbufByte]

/-- The byte that a step changed lies in PBUF and the served event may write it. -/
theorem step_pbufByte {s t : State} {a : Nat} (h : step s = .next t)
    (hne : t.pbufByte a ≠ s.pbufByte a) :
    a < s.cfg.bufSize ∧ ∃ e rest, s.inbox = e :: rest ∧ MayWriteByte s e a := by
  obtain ⟨-, rfl⟩ | ⟨e, rest, hi, ⟨c, hport, hc⟩ | ⟨-, rfl⟩ | ⟨-, rfl⟩ | ⟨w, rfl, rfl⟩⟩ := step_next h
  · exact absurd rfl hne
  · obtain ⟨hd, hsize, hcovers | ⟨ho, hdata, hencode⟩⟩ := serveAccess_pbufByte hc hne
    · exact ⟨hsize, e, rest, hi, .inl ⟨c, hport, hd, hcovers⟩⟩
    · exact ⟨hsize, e, rest, hi, .inr ⟨.inl ⟨c, hport, hd, ho, hdata⟩, hencode⟩⟩
  · exact absurd rfl hne
  · exact absurd (State.pbufByte_congr (State.releaseReset_pbuf (s.accept rest)) a) hne
  · obtain ⟨rfl, hrel, hin, hrange⟩ := State.resetDuringCmd_pbufByte hne
    exact ⟨lt_of_lt_of_le hrange.2 hin, _, rest, hi, .inr ⟨.inr rfl, hrel, hrange⟩⟩

end Sys2Proof.Machine

/-!
PROOFS. The statements of spec/20_memory.md: refused accesses, the order of accesses, reads, the PBUF
window, the bytes of PBUF, the bus address.
-/
namespace Sys2Proof.Proofs

open Sys2Proof.Machine Sys2Proof.Claims

/-- Settles O25: a host access is refused on R45's list and completes otherwise; every other event
completes. -/
theorem onlyMeaninglessAccessesAreRefused : Obligations.OnlyMeaninglessAccessesAreRefused := by
  refine fun s => ⟨step_ne_fault s, fun a rest hi => ?_, fun e rest r hi hr => ?_⟩
  · rw [step_of_access hi]
    exact serveAccess_refused_iff a _
  · rw [step_of_cons hi] at hr
    obtain ⟨t, ht⟩ | ⟨-, haccess⟩ := serve_outcome e (s.accept rest)
    · simp [ht] at hr
    · exact haccess

/-- Settles O29: the events that change a byte, by the inversion of a step. -/
theorem pbufBytesChangeOnlyByWriteOrEncode : Obligations.PbufBytesChangeOnlyByWriteOrEncode :=
  fun _ _ _ hstep hne => step_pbufByte hstep hne

/-- Settles O30: serving an event does not touch the inbox. -/
theorem hostEventsAreServedInOrder : Obligations.HostEventsAreServedInOrder :=
  fun _ _ hstep => step_inbox hstep

/-- Settles O31: of all that an access can do only the read data is left for a read. -/
theorem readsHaveNoSideEffect : Obligations.ReadsHaveNoSideEffect := by
  intro s rest w o v hi hok
  rw [step_of_access hi]
  obtain ⟨hrefused, -⟩ | ⟨-, t, ht⟩ := serveAccess_outcome ⟨.read, w, o, v⟩ (taken s rest)
  · exact absurd hrefused hok
  · obtain ⟨-, x, rfl⟩ | ⟨hd, -⟩ | ⟨hd, -⟩ | ⟨hd, -⟩ | ⟨hd, -⟩ := serveAccess_next ht
    · exact ⟨x, ht⟩
    · cases hd
    · cases hd
    · cases hd
    · cases hd

/-- Settles O35: a window write replaces its lanes below BUF_SIZE in PBUF. -/
theorem windowWriteStoresItsLanes : Obligations.WindowWriteStoresItsLanes := by
  intro s rest w a v hi ha hal
  refine ⟨_, step_windowWrite hi ha hal, rfl, rfl, rfl, rfl, rfl, rfl, fun k hk hsize => ?_,
    fun x hx => ?_⟩
  · rw [State.pbufByte_windowWrite, if_pos ⟨by omega, by omega, hsize⟩, Nat.add_sub_cancel_left]
  · have hout : ¬ (a ≤ x ∧ x < a + w.bytes ∧ x < s.cfg.bufSize) := by omega
    rw [State.pbufByte_windowWrite]
    exact if_neg hout

/-- Settles O36: the read data lane by lane. -/
theorem windowReadReturnsItsLanes : Obligations.WindowReadReturnsItsLanes :=
  fun s _ w a _ hi ha hal =>
    ⟨_, step_windowRead hi ha hal, fun _ hk => s.windowRead_lane a w.bytes hk⟩

/-- Settles O37: the write leaves the read next, and in range every lane read is a lane written. -/
theorem windowReadSeesTheWriteBefore : Obligations.WindowReadSeesTheWriteBefore := by
  intro s rest w a v x hi hin ha hal
  obtain ⟨t, ht, -, hcfg, -, -, hinbox, -, hwritten, -⟩ :=
    windowWriteStoresItsLanes s _ w a v hi ha hal
  obtain ⟨y, hu, hread⟩ := windowReadReturnsItsLanes t rest w a x hinbox ha hal
  refine ⟨t, _, y, ht, hu, rfl, fun k hk => ?_⟩
  rw [hread k hk, hcfg]
  by_cases hkw : k < w.bytes
  · have hsize : a + k < s.cfg.bufSize := by omega
    rw [if_pos ⟨hkw, hsize⟩, if_pos hkw, hwritten k hkw hsize]
  · rw [if_neg fun h => hkw h.1, if_neg hkw]

/-- Settles O26: the port subtracts BASE before it looks at the offset. -/
theorem busAddressesCountFromBase : Obligations.BusAddressesCountFromBase := by
  intro s rest d w o v hi
  have hbus := serve_busAccess_base_add (s.accept rest) d w o v
  rw [step_of_cons hi]
  exact hbus

end Sys2Proof.Proofs

/-!
PROOFS. The command word: decoder and encoder as one map, the illegal words, and the step that
serves a CMD write.
-/
namespace Sys2Proof.Machine

open Claims

/-! ### The command map -/

@[simp] theorem decode_encode (i : Instr) : decode (encode i) = .cmd i := by cases i <;> decide

/-- The decoder and the encoder are inverse: a command has one word and no other. -/
theorem decode_eq_cmd_iff {w : Word} {i : Instr} : decode w = .cmd i ↔ w = encode i := by
  refine ⟨eq_encode_of_decode, ?_⟩
  rintro rfl
  exact decode_encode i

theorem encode_eq_matchWord (i : Instr) : encode i = matchWord i := by cases i <;> rfl

/-- The mask of spec/30_encoding.md R58 keeps every bit. -/
theorem and_fullMask (w : Word) : w &&& 0xFFFFFFFF#32 = w := BitVec.and_allOnes

/-! ### Illegal words -/

/-- Below 5 OP selects a command (spec/30_encoding.md R58). -/
theorem decodeOp_of_lt {op : BitVec 4} (h : op.toNat < 5) : ∃ i, decodeOp op = .cmd i := by
  unfold decodeOp
  interval_cases op.toNat <;> exact ⟨_, rfl⟩

/-- From 5 on OP is unused (spec/30_encoding.md R59). -/
theorem decodeOp_of_ge {op : BitVec 4} (h : 5 ≤ op.toNat) : decodeOp op = .illegal .unusedOp := by
  revert op
  decide

theorem decode_illegal_iff (w : Word) : (∃ why, decode w = .illegal why) ↔ IllegalCmd w := by
  unfold decode
  by_cases hrsv : rsvField w = 0
  · have hzero : w.extractLsb' 4 28 = 0#28 := hrsv
    rw [if_pos hrsv]
    by_cases hop : (opField w).toNat < 5
    · obtain ⟨i, hi⟩ := decodeOp_of_lt hop
      rw [hi]
      exact iff_of_false nofun fun h => h.elim (absurd hzero) (Nat.not_le_of_lt hop)
    · have hge : 5 ≤ (opField w).toNat := Nat.le_of_not_lt hop
      exact iff_of_true ⟨_, decodeOp_of_ge hge⟩ (.inr hge)
  · rw [if_neg hrsv]
    exact iff_of_true ⟨_, rfl⟩ (.inl hrsv)

/-! ### Words of the table -/

/-- The 32 bits of a word are the word. -/
theorem tableWord_toNat (w : Word) : tableWord 32 w.toNat = w := by
  rw [tableWord, Nat.mod_eq_of_lt w.isLt, BitVec.ofNat_toNat, BitVec.setWidth_eq]

theorem decodeTableWord_eq_some_iff {nbits w : Nat} {i : Instr} :
    decodeTableWord nbits w = some i ↔ nbits ≤ 32 ∧ decode (tableWord nbits w) = .cmd i := by
  unfold decodeTableWord
  by_cases hn : nbits ≤ 32
  · cases decode (tableWord nbits w) <;> simp [hn]
  · simp [hn]

/-! ### The step that serves a CMD write -/

theorem runCmd_of_decode {w : Word} {i : Instr} (h : decode w = .cmd i) (s : State) :
    runCmd w s = exec i s := by
  simp only [runCmd, h]

/-- With the reset input released a CMD write runs its word (spec/40_dispatch.md R75). -/
theorem step_cmdWrite {s : State} {rest : List Event} {w : Word}
    (h : s.inbox = .access ⟨.write, .w32, RegName.cmd.offset, w⟩ :: rest) (hrel : s.rst = false) :
    step s = runCmd w (taken s rest) := by
  have hrst : (taken s rest).rst = false := hrel
  rw [step_writeReg h .cmd rfl, State.regWrite, hrst, if_neg nofun, if_pos rfl]

end Sys2Proof.Machine

/-!
PROOFS. What PARSE and MATCH read of a datagram: its length and its bytes from byte 20 on
(spec/30_encoding.md R66).
-/
namespace Sys2Proof.Machine

open Claims

/-! ### Two datagrams with the same bytes from byte 20 on -/

section

variable {d d' : List Byte} (h : d.drop 20 = d'.drop 20)
include h

theorem slice_of_drop_eq {i : Nat} (hi : 20 ≤ i) (j : Nat) : slice d i j = slice d' i j := by
  obtain ⟨k, rfl⟩ := Nat.exists_eq_add_of_le hi
  rw [slice, slice, ← List.drop_drop, ← List.drop_drop, h]

theorem getD_of_drop_eq {i : Nat} (hi : 20 ≤ i) (x : Byte) : d.getD i x = d'.getD i x := by
  obtain ⟨k, rfl⟩ := Nat.exists_eq_add_of_le hi
  rw [List.getD_eq_getElem?_getD, List.getD_eq_getElem?_getD, ← List.getElem?_drop,
    ← List.getElem?_drop, h]

theorem header0_congr (o : ByteOrder) : header0 o d = header0 o d' := by
  rw [header0, header0, slice_of_drop_eq h (by omega), getD_of_drop_eq h (by omega),
    getD_of_drop_eq h (by omega)]

theorem header1_congr (o : ByteOrder) : header1 o d = header1 o d' := by
  rw [header1, header1, slice_of_drop_eq h (i := 24) (by omega),
    slice_of_drop_eq h (i := 26) (by omega)]

theorem strictOk_congr : strictOk d = strictOk d' := by
  rw [strictOk, strictOk, getD_of_drop_eq h (i := 20) (by omega),
    getD_of_drop_eq h (i := 21) (by omega), h]

theorem isMatch_congr (r : Regs) : isMatch r d = isMatch r d' := by
  rw [isMatch, isMatch, slice_of_drop_eq h (by omega), strictOk_congr h]

theorem loadRx_regs_congr (hlen : d.length = d'.length) {s s' : State} (hregs : s.regs = s'.regs) :
    (loadRx s d).regs = (loadRx s' d').regs := by
  rw [loadRx_regs, loadRx_regs, hregs, hlen, header0_congr h, header1_congr h,
    slice_of_drop_eq h (by omega)]

end

/-! ### Two states with the same registers -/

theorem State.setStatus_regs_congr {s s' : State} (h : s.regs = s'.regs) (v : Word) :
    (s.setStatus v).regs = (s'.setStatus v).regs := by
  rw [State.setStatus, State.setStatus, h]

/-- Operands of the same place and length that agree from byte 20 on. -/
theorem operand_drop_congr {s s' : State} (hregs : s.regs = s'.regs)
    (hbytes : ∀ k, 20 ≤ k → k < lenOf s → byteAt s k = byteAt s' k) :
    (operand s).drop 20 = (operand s').drop 20 := by
  have hlen : lenOf s = lenOf s' := by rw [lenOf, lenOf, hregs]
  refine List.ext_getElem (by simp [hlen]) fun k hk _ => ?_
  have hk : 20 + k < lenOf s := by
    rw [List.length_drop, operand_length] at hk
    omega
  simpa [operand] using hbytes (20 + k) (by omega) hk

/-- The registers PARSE and MATCH leave depend on the registers before, on BUF_SIZE, and on the
datagram from byte 20 on. -/
theorem exec_datagram_regs_congr {i : Instr} (hi : i = .parse ∨ i = .matchReply) {s s' t t' : State}
    (hregs : s.regs = s'.regs) (hcfg : s.cfg = s'.cfg)
    (hdrop : (operand s).drop 20 = (operand s').drop 20)
    (h : exec i s = .next t) (h' : exec i s' = .next t') : t.regs = t'.regs := by
  have hlen : (operand s).length = (operand s').length := by
    rw [operand_length, operand_length, lenOf, lenOf, hregs]
  rw [exec_eq_withDatagram hi, withDatagram_cases, State.pbufBytes_eq_operand] at h h'
  rw [← hregs, ← hcfg] at h'
  split_ifs at h h' <;> cases h <;> cases h'
  · exact State.setStatus_regs_congr hregs _
  · exact State.setStatus_regs_congr hregs _
  · rw [hasTimestamp, hasTimestamp, hlen, isMatch_congr hdrop]
    exact State.setStatus_regs_congr (loadRx_regs_congr hdrop hlen hregs) _

end Sys2Proof.Machine

/-!
PROOFS. Transactions and programs as tuples: the tuple of a served access, and the encoding of a
program whose next access is not served.
-/
namespace Sys2Proof.Machine

open Claims

/-- A served access has a 13-bit offset (spec/20_memory.md R45). -/
theorem serveAccess_offset_lt {a : Transaction} {s t : State} (h : serveAccess a s = .next t) :
    a.offset < 2 ^ 13 := by
  obtain ⟨-, r, hr⟩ | ⟨hok, -⟩ := serveAccess_outcome a s
  · simp [h] at hr
  · by_contra hlt
    exact hok (.inr (.inr (by omega)))

/-- The read data that a served read leaves on the port is the data of its tuple. -/
theorem serveAccess_rdata {a : Transaction} {s t : State} (h : serveAccess a s = .next t)
    (hd : a.dir = .read) : t.rdata = some (a.completed t).data := by
  rw [Transaction.completed_data_of_read hd]
  obtain ⟨-, v, rfl⟩ | ⟨hw, -⟩ | ⟨hw, -⟩ | ⟨hw, -⟩ | ⟨hw, -⟩ := serveAccess_next h
  · rfl
  all_goals exact absurd (hw.symm.trans hd) nofun

/-- With nothing pending a program is the whole inbox. -/
theorem State.withProgram_of_idle {s : State} (h : s.inbox = []) (p : List Transaction) :
    s.withProgram p = { s with inbox := p.map Event.access } := by
  rw [State.withProgram, h, List.nil_append]

/-- A program whose first access is not served has no encoding. -/
theorem programEncoding_of_not_next {t : Transaction} {rest : List Transaction} {s : State}
    (h : ∀ u, step { s with inbox := (t :: rest).map Event.access } ≠ .next u) :
    programEncoding (t :: rest) s = none := by
  rw [programEncoding]
  split
  · next u hu => exact absurd hu (h u)
  · rfl
  · rfl

/-- An encoding of a program that is not empty is the tuple of its first access, which was served,
and then an encoding of the rest. -/
theorem programEncoding_cons_inversion {t : Transaction} {rest l : List Transaction} {s : State}
    (h : programEncoding (t :: rest) s = some l) :
    ∃ u tuples, step { s with inbox := (t :: rest).map Event.access } = .next u ∧
      programEncoding rest u = some tuples ∧ l = t.completed u :: tuples := by
  by_cases hserved : ∃ u, step { s with inbox := (t :: rest).map Event.access } = .next u
  · obtain ⟨u, hu⟩ := hserved
    rw [programEncoding_of_next hu] at h
    obtain ⟨tuples, htuples, rfl⟩ := Option.map_eq_some_iff.1 h
    exact ⟨u, tuples, hu, htuples, rfl⟩
  · rw [programEncoding_of_not_next (not_exists.1 hserved)] at h
    cases h

/-- One tuple for each transaction, in order, with its direction, width and offset. -/
theorem programEncoding_fields {p l : List Transaction} {s : State}
    (h : programEncoding p s = some l) :
    l.map (fun x => (x.dir, x.width, x.offset)) = p.map fun x => (x.dir, x.width, x.offset) := by
  induction p generalizing s l with
  | nil =>
    cases h
    rfl
  | cons t rest ih =>
    obtain ⟨u, tuples, -, htuples, rfl⟩ := programEncoding_cons_inversion h
    simp [ih htuples]

end Sys2Proof.Machine

/-!
PROOFS. The statements of spec/30_encoding.md: the command words, what of a datagram is never read,
transactions and programs as tuples.
-/
namespace Sys2Proof.Proofs

open Sys2Proof.Machine Sys2Proof.Claims

/-- Settles O4: decoder and encoder are inverse, the mask keeps every bit, and what is no command is
illegal by RSV or by OP. -/
theorem decodingAndEncodingAreTheCommandMap : Obligations.DecodingAndEncodingAreTheCommandMap := by
  refine ⟨fun i _ => ⟨encode_eq_matchWord i, decode_encode i⟩, fun w i => ?_, decode_illegal_iff,
    fun w i => ?_⟩
  · rw [decode_eq_cmd_iff, and_fullMask, encode_eq_matchWord]
  · rw [decodeTableWord_eq_some_iff, tableWord_toNat, decode_eq_cmd_iff]
    exact and_iff_right le_rfl

/-- Settles O53: PARSE and MATCH depend on the datagram from byte 20 on, and on nothing else of
PBUF. -/
theorem ipHeaderIsNeverRead : Obligations.IpHeaderIsNeverRead := by
  intro s s' t t' hregs hcfg hbytes
  have hdrop := operand_drop_congr hregs hbytes
  exact ⟨exec_datagram_regs_congr (.inl rfl) hregs hcfg hdrop,
    exec_datagram_regs_congr (.inr rfl) hregs hcfg hdrop⟩

/-- Settles O55: a served access has a 13-bit offset, and of all it can do only a read puts data on
the port. -/
theorem transactionTupleHoldsTheReadResult : Obligations.TransactionTupleHoldsTheReadResult := by
  intro s u t rest hi hstep
  rw [step_of_access hi] at hstep
  exact ⟨t.completed_dir u, t.completed_width u, t.completed_offset u, serveAccess_offset_lt hstep,
    fun hd => by rw [Transaction.completed_of_write hd], serveAccess_rdata hstep⟩

/-- Settles O56: the encoding access by access; the number and order of the tuples by induction on
the program. -/
theorem programEncodingIsTheListOfTuples : Obligations.ProgramEncodingIsTheListOfTuples := by
  refine ⟨fun s u t p hidle hstep => ?_, fun s t p hidle hno => ?_,
    fun s p l => programEncoding_fields, programEncoding_nil, rfl, rfl, rfl, rfl⟩
  · rw [State.withProgram_of_idle hidle] at hstep
    refine ⟨step_inbox hstep, ?_⟩
    rw [programEncoding_of_next hstep, programEncoding_inbox p u []]
  · rw [State.withProgram_of_idle hidle] at hno
    exact programEncoding_of_not_next hno

/-- Settles O3: the five words of the map are the encoder's; the other four are evaluated. -/
theorem commandWordsDecodeAsWritten : Obligations.CommandWordsDecodeAsWritten :=
  ⟨decode_encode .nop, decode_encode .csum, decode_encode .encode, decode_encode .parse,
    decode_encode .matchReply, by decide, by decide, by decide, by decide⟩

/-- Settles O8: the placed word is a CMD write at the head of the inbox, with the reset input
released. -/
theorem placedWordRunsNext : Obligations.PlacedWordRunsNext := by
  intro s nbits w i hdec
  obtain ⟨-, hcmd⟩ := decodeTableWord_eq_some_iff.1 hdec
  rw [step_cmdWrite (s := s.withFetchWord nbits w) rfl rfl, runCmd_of_decode hcmd]
  rfl

end Sys2Proof.Proofs

/-!
PROOFS. What a CMD write runs: the decoded command, or the outcome of an illegal word.
-/
namespace Sys2Proof.Machine

open Claims

/-- BADCMD is the STATUS word 3 (spec/40_dispatch.md R78). -/
theorem State.raise_badCmd (s : State) : s.raise .badCmd = withStatus s 0x00000003#32 := rfl

theorem runCmd_of_illegal {w : Word} (h : IllegalCmd w) (s : State) :
    runCmd w s = .next (withStatus s 0x00000003#32) := by
  obtain ⟨why, hd⟩ := (decode_illegal_iff w).2 h
  simp only [runCmd, hd, badCmd, State.raise_badCmd]

section CmdWrite

variable {s : State} {rest : List Event} {w : Word}
  (hi : s.inbox = .access ⟨.write, .w32, RegName.cmd.offset, w⟩ :: rest) (hrel : s.rst = false)

include hi hrel

theorem step_cmdWrite_of_decode {i : Instr} (hd : decode w = .cmd i) :
    step s = exec i (taken s rest) := by
  rw [step_cmdWrite hi hrel, runCmd_of_decode hd]

theorem step_cmdWrite_of_illegal (h : IllegalCmd w) :
    step s = .next (withStatus (taken s rest) 0x00000003#32) := by
  rw [step_cmdWrite hi hrel, runCmd_of_illegal h]

/-- A command's own word selects it (spec/30_encoding.md R58). -/
theorem step_cmdWrite_of_encode {i : Instr} (hw : w = encode i) :
    step s = exec i (taken s rest) :=
  step_cmdWrite_of_decode hi hrel (decode_eq_cmd_iff.2 hw)

end CmdWrite

end Sys2Proof.Machine

/-!
PROOFS. The statements of spec/40_dispatch.md: every command completes, a CMD write runs the command
its word selects, an illegal word only sets STATUS, NOP changes nothing.
-/
namespace Sys2Proof.Proofs

open Sys2Proof.Machine Sys2Proof.Claims

/-- Settles O14: no command leaves its range, so none faults, and none has a refusal. -/
theorem everyCommandCompletes : Obligations.EveryCommandCompletes := exec_completes

/-- Settles O5: the five words of the map are the encoder's, and every word that RSV or OP makes
illegal has the one outcome BADCMD. -/
theorem stepRunsTheDecodedCommand : Obligations.StepRunsTheDecodedCommand := by
  intro s rest w hi hrel
  have hcmd {i : Instr} (hw : w = encode i) : step s = exec i (taken s rest) :=
    step_cmdWrite_of_encode hi hrel hw
  have hillegal := step_cmdWrite_of_illegal hi hrel
  exact ⟨fun i hd => step_cmdWrite_of_decode hi hrel hd, fun hrsv => hillegal (.inl hrsv),
    hcmd (i := .nop), hcmd (i := .csum), hcmd (i := .encode), hcmd (i := .parse),
    hcmd (i := .matchReply), fun hop => hillegal (.inr hop)⟩

/-- Settles O6: the illegal case of a CMD write. -/
theorem illegalWordOnlySetsBadcmd : Obligations.IllegalWordOnlySetsBadcmd :=
  fun _ _ _ hi hrel hillegal => step_cmdWrite_of_illegal hi hrel hillegal

/-- Settles O9: NOP's meaning is the state it started from. -/
theorem nopChangesNothing : Obligations.NopChangesNothing := fun _ => rfl

end Sys2Proof.Proofs

/-!
PROOFS. The laws of the checksum: the end-around-carry value of an exact sum, `fold` as that value, the
accumulator as the exact sum of the pairs, and the byte swap between the two byte orders.
-/
namespace Sys2Proof.Machine

open Claims

/-! ### The end-around-carry value -/

/-- The end-around-carry value is the only one with its range, its zero and its residue. -/
theorem endAround_eq_iff {m n : Nat} :
    endAround n = m ↔ m ≤ 0xFFFF ∧ (m = 0 ↔ n = 0) ∧ m % 0xFFFF = n % 0xFFFF := by
  unfold endAround
  split <;> omega

theorem endAround_spec (n : Nat) :
    endAround n ≤ 0xFFFF ∧ (endAround n = 0 ↔ n = 0) ∧ endAround n % 0xFFFF = n % 0xFFFF :=
  endAround_eq_iff.1 rfl

theorem endAround_of_le {n : Nat} (h : n ≤ 0xFFFF) : endAround n = n :=
  endAround_eq_iff.2 ⟨h, .rfl, rfl⟩

/-- One pass of the end-around carry keeps the value. -/
theorem endAround_halves (n : Nat) : endAround (n / 0x10000 + n % 0x10000) = endAround n := by
  obtain ⟨hle, hzero, hmod⟩ := endAround_spec n
  rw [endAround_eq_iff]
  omega

/-- A sum and the complement of its value add up to a positive multiple of 0xFFFF. -/
theorem endAround_add_complement (n : Nat) : endAround (n + (0xFFFF - endAround n)) = 0xFFFF := by
  obtain ⟨hle, hzero, hmod⟩ := endAround_spec n
  rw [endAround_eq_iff]
  omega

/-! ### The fold -/

/-- A pass adds the two halves, and their sum does not overflow. -/
theorem foldPass_toNat (acc : Word) :
    (foldPass acc).toNat = acc.toNat / 0x10000 + acc.toNat % 0x10000 := by
  have hlow : (acc &&& 0x0000FFFF#32).toNat = acc.toNat % 0x10000 := by
    rw [BitVec.toNat_and]
    exact Nat.and_two_pow_sub_one_eq_mod acc.toNat 16
  have hhigh : (acc >>> 16).toNat = acc.toNat / 0x10000 := by
    rw [BitVec.toNat_ushiftRight, Nat.shiftRight_eq_div_pow]
  rw [foldPass, BitVec.toNat_add, hlow, hhigh]
  omega

theorem endAround_foldPass (acc : Word) :
    endAround (foldPass acc).toNat = endAround acc.toNat := by
  rw [foldPass_toNat, endAround_halves]

theorem endAround_foldLoop (k : Nat) (acc : Word) :
    endAround (foldLoop k acc).toNat = endAround acc.toNat := by
  induction k generalizing acc with
  | zero => rfl
  | succ k ih =>
    rw [foldLoop]
    split
    · rw [ih, endAround_foldPass]
    · rfl

/-- Two passes are enough for 32 bits (spec/41_checksum.md R81, log 11): the first leaves at most
0x1FFFE. -/
theorem fold_le (acc : Word) : (fold acc).toNat ≤ 0xFFFF := by
  have hfirst (a : Word) : (foldPass a).toNat ≤ 0x1FFFE := by
    have ha : a.toNat < 2 ^ 32 := a.isLt
    rw [foldPass_toNat]
    omega
  have hsecond (a : Word) (ha : a.toNat ≤ 0x1FFFE) : (foldPass a).toNat ≤ 0xFFFF := by
    rw [foldPass_toNat]
    omega
  rw [fold, foldLoop, foldLoop]
  split
  · split
    · exact hsecond _ (hfirst acc)
    · next hle => exact BitVec.not_lt.1 hle
  · next hle => exact BitVec.not_lt.1 hle

/-- `fold` is the end-around-carry value of the accumulator. -/
theorem fold_toNat (acc : Word) : (fold acc).toNat = endAround acc.toNat := by
  rw [← endAround_foldLoop 2 acc]
  exact (endAround_of_le (fold_le acc)).symm

theorem fold_of_le {acc : Word} (h : acc.toNat ≤ 0xFFFF) : fold acc = acc :=
  BitVec.eq_of_toNat_eq <| by rw [fold_toNat, endAround_of_le h]

theorem fold_foldPass (acc : Word) : fold (foldPass acc) = fold acc :=
  BitVec.eq_of_toNat_eq <| by rw [fold_toNat, fold_toNat, endAround_foldPass]

/-! ### The accumulator -/

theorem pairSum_le (d : List Byte) : pairSum d ≤ 0xFFFF * d.length := by
  induction d using pairSum.induct with
  | case1 => exact Nat.zero_le _
  | case2 x =>
    have hx : x.toNat < 256 := x.isLt
    simp only [pairSum, List.length_singleton]
    omega
  | case3 x y r ih =>
    have hx : x.toNat < 256 := x.isLt
    have hy : y.toNat < 256 := y.isLt
    simp only [pairSum, List.length_cons]
    omega

/-- The accumulator is the exact sum modulo 2^32 (spec/41_checksum.md R82). -/
theorem sumPairs_toNat (acc : Word) (d : List Byte) :
    (sumPairs acc d).toNat = (acc.toNat + pairSum d) % 2 ^ 32 := by
  induction acc, d using sumPairs.induct with
  | case1 acc => exact (Nat.mod_eq_of_lt acc.isLt).symm
  | case2 acc x =>
    have hx : x.toNat < 256 := x.isLt
    simp [sumPairs, pairSum, BitVec.toNat_add]
  | case3 acc x y r ih =>
    have hx : x.toNat < 256 := x.isLt
    have hy : y.toNat < 256 := y.isLt
    have hpair : (x.setWidth 32 + (y.setWidth 32 <<< 8)).toNat = x.toNat + 256 * y.toNat := by
      simp only [BitVec.toNat_add, BitVec.toNat_shiftLeft, BitVec.toNat_setWidth, Nat.shiftLeft_eq]
      omega
    rw [sumPairs, ih, BitVec.toNat_add, hpair, pairSum]
    omega

/-- For what fits in a PBUF the modulus is never reached (spec/41_checksum.md R82). -/
theorem sumPairs_toNat_of_length_le {d : List Byte} (h : d.length ≤ 4096) :
    (sumPairs 0#32 d).toNat = pairSum d := by
  have hle : pairSum d ≤ 0xFFFF * d.length := pairSum_le d
  rw [sumPairs_toNat, BitVec.toNat_ofNat]
  omega

theorem sumPairs_append_zero (acc : Word) (d : List Byte) :
    sumPairs acc (d ++ [0x00#8]) = sumPairs acc d := by
  induction acc, d using sumPairs.induct with
  | case1 acc => simp [sumPairs]
  | case2 acc x => simp [sumPairs]
  | case3 acc x y r ih => exact ih

theorem sumPairs_append_replicate_zero (acc : Word) (d : List Byte) (k : Nat) :
    sumPairs acc (d ++ List.replicate k 0x00#8) = sumPairs acc d := by
  induction k with
  | zero => rw [List.replicate_zero, List.append_nil]
  | succ k ih => rw [List.replicate_succ', ← List.append_assoc, sumPairs_append_zero, ih]

/-! ### The byte swap -/

@[simp] theorem swapBytes_low (v : Half) : (swapBytes v).extractLsb' 0 8 = v.extractLsb' 8 8 :=
  BitVec.extractLsb'_append_eq_right

@[simp] theorem swapBytes_high (v : Half) : (swapBytes v).extractLsb' 8 8 = v.extractLsb' 0 8 :=
  BitVec.extractLsb'_append_eq_left

@[simp] theorem swapBytes_swapBytes (v : Half) : swapBytes (swapBytes v) = v := by
  rw [swapBytes, swapBytes_low, swapBytes_high]
  exact (BitVec.extractLsb'_append_extractLsb'_eq_extractLsb' rfl).trans BitVec.extractLsb'_eq_self

theorem swapBytes_eq_iff {v w : Half} : swapBytes v = w ↔ v = swapBytes w := by
  constructor <;> rintro rfl <;> rw [swapBytes_swapBytes]

/-- A 16-bit value is the little-endian pair of its bytes. -/
theorem toNat_bytes (v : Half) :
    (v.extractLsb' 0 8).toNat + 256 * (v.extractLsb' 8 8).toNat = v.toNat := by
  have hv : v.toNat < 2 ^ 16 := v.isLt
  simp only [BitVec.extractLsb'_toNat, Nat.shiftRight_eq_div_pow]
  omega

theorem swapBytes_toNat (v : Half) :
    (swapBytes v).toNat = 256 * (v.toNat % 256) + v.toNat / 256 := by
  have hv : v.toNat < 2 ^ 16 := v.isLt
  rw [← toNat_bytes (swapBytes v), swapBytes_low, swapBytes_high]
  simp only [BitVec.extractLsb'_toNat, Nat.shiftRight_eq_div_pow]
  omega

/-! ### The checksum of a byte sequence -/

/-- The bytes the checksum puts on the wire are those of the complemented folded sum. -/
theorem swapBytes_checksum (d : List Byte) :
    swapBytes (checksum d) = ~~~ (fold (sumPairs 0#32 d)).extractLsb' 0 16 := by
  rw [checksum, swap16_eq_swapBytes, swapBytes_swapBytes]

theorem swapBytes_checksum_toNat {d : List Byte} (h : d.length ≤ 4096) :
    (swapBytes (checksum d)).toNat = 0xFFFF - endAround (pairSum d) := by
  have hle : endAround (pairSum d) ≤ 0xFFFF := (endAround_spec _).1
  have hfold : (fold (sumPairs 0#32 d)).toNat = endAround (pairSum d) := by
    rw [fold_toNat, sumPairs_toNat_of_length_le h]
  rw [swapBytes_checksum, BitVec.toNat_not, BitVec.extractLsb'_toNat, Nat.shiftRight_zero, hfold,
    Nat.mod_eq_of_lt (by omega)]

theorem pairSum_eq_zero_iff (d : List Byte) : pairSum d = 0 ↔ ∀ b ∈ d, b = 0x00#8 := by
  simp only [BitVec.toNat_eq]
  induction d using pairSum.induct with
  | case1 => simp [pairSum]
  | case2 x => simp [pairSum]
  | case3 x y r ih => simp [pairSum, ih, and_assoc]

/-- All ones is the complement of a zero sum. -/
theorem checksum_eq_allOnes_iff {d : List Byte} (h : d.length ≤ 4096) :
    checksum d = 0xFFFF#16 ↔ ∀ b ∈ d, b = 0x00#8 := by
  obtain ⟨hle, hzero, -⟩ := endAround_spec (pairSum d)
  have hones : swapBytes 0xFFFF#16 = 0xFFFF#16 := by decide
  rw [← pairSum_eq_zero_iff, ← hzero, ← hones, ← swapBytes_eq_iff, BitVec.toNat_eq,
    swapBytes_checksum_toNat h, BitVec.toNat_ofNat]
  omega

/-! ### A checksum in its own range -/

theorem patch2_length (d : List Byte) (p : Nat) (b0 b1 : Byte) :
    (patch2 d p b0 b1).length = d.length := by
  rw [patch2, List.length_set, List.length_set]

/-- A pair put in the place of a zero pair adds to the sum. -/
theorem pairSum_patch2 {d : List Byte} {k : Nat} (h0 : d.getD (2 * k) 0xFF#8 = 0x00#8)
    (h1 : d.getD (2 * k + 1) 0xFF#8 = 0x00#8) (b0 b1 : Byte) :
    pairSum (patch2 d (2 * k) b0 b1) = pairSum d + (b0.toNat + 256 * b1.toNat) := by
  induction d using pairSum.induct generalizing k with
  | case1 => simp at h0
  | case2 x => simp at h1
  | case3 x y r ih =>
    cases k with
    | zero =>
      obtain rfl : x = 0x00#8 := h0
      obtain rfl : y = 0x00#8 := h1
      simp [patch2, pairSum, Nat.add_comm]
    | succ k =>
      have hrest := ih (k := k) h0 h1
      change (x.toNat + 256 * y.toNat) + pairSum (patch2 r (2 * k) b0 b1) = _
      rw [hrest, pairSum]
      omega

/-- A checksum whose bytes take the place of a zero pair completes the sum to a multiple of 0xFFFF
(spec/41_checksum.md R87). -/
theorem checksum_patch2 {d : List Byte} {p : Nat} (hlen : d.length ≤ 4096) (hp : p % 2 = 0)
    (h0 : d.getD p 0xFF#8 = 0x00#8) (h1 : d.getD (p + 1) 0xFF#8 = 0x00#8) :
    checksum (patch2 d p ((swapBytes (checksum d)).extractLsb' 0 8)
      ((swapBytes (checksum d)).extractLsb' 8 8)) = 0x0000#16 := by
  obtain ⟨k, rfl⟩ : ∃ k, p = 2 * k := ⟨p / 2, by omega⟩
  have hswap : swapBytes 0x0000#16 = 0x0000#16 := by decide
  rw [← hswap, ← swapBytes_eq_iff, BitVec.toNat_eq,
    swapBytes_checksum_toNat (by rwa [patch2_length]), pairSum_patch2 h0 h1, toNat_bytes,
    swapBytes_checksum_toNat hlen, endAround_add_complement]
  rfl

/-! ### Byte-order independence -/

/-- Swapping the bytes of a word multiplies it by 256 modulo 0xFFFF (spec/41_checksum.md R88). -/
theorem networkSum_mod (d : List Byte) : networkSum d % 0xFFFF = 256 * pairSum d % 0xFFFF := by
  induction d using pairSum.induct with
  | case1 => rfl
  | case2 x => rfl
  | case3 x y r ih =>
    simp only [networkSum, pairSum]
    omega

theorem networkSum_eq_zero_iff (d : List Byte) : networkSum d = 0 ↔ pairSum d = 0 := by
  induction d using pairSum.induct with
  | case1 => rfl
  | case2 x => simp [networkSum, pairSum]
  | case3 x y r ih =>
    simp only [networkSum, pairSum]
    omega

/-- The value of the network sum is the byte-swapped one of the pair sum. -/
theorem endAround_networkSum (d : List Byte) :
    endAround (networkSum d) =
      256 * (endAround (pairSum d) % 256) + endAround (pairSum d) / 256 := by
  obtain ⟨hle, hzero, hmod⟩ := endAround_spec (pairSum d)
  have hnetzero := networkSum_eq_zero_iff d
  have hnetmod := networkSum_mod d
  rw [endAround_eq_iff]
  omega

theorem checksum_toNat {d : List Byte} (h : d.length ≤ 4096) :
    (checksum d).toNat = 0xFFFF - endAround (networkSum d) := by
  have hle : endAround (pairSum d) ≤ 0xFFFF := (endAround_spec _).1
  rw [← swapBytes_swapBytes (checksum d), swapBytes_toNat, swapBytes_checksum_toNat h,
    endAround_networkSum]
  omega

end Sys2Proof.Machine

/-!
PROOFS. CSUM and ENCODE as equations over every state, and the packet of ENCODE: the zero-checksum
packet with the two bytes of its checksum in place.
-/
namespace Sys2Proof.Machine

open Claims

/-! ### The two commands -/

theorem exec_csum_eq (s : State) :
    exec .csum s =
      if s.cfg.bufSize < offOf s + lenOf s then .next (s.raise .bounds)
      else .next ((s.setResult (checksum (operand s))).setStatus 0x00000000#32) := by
  change execCsum s = _
  rw [execCsum_cases, State.pbufBytes_eq_operand, Regs.offNat_eq_offOf, Regs.lenNat_eq_lenOf]

theorem exec_csum_of_inRange {s : State} (h : InRange s (lenOf s)) :
    exec .csum s = .next ((s.setResult (checksum (operand s))).setStatus 0x00000000#32) := by
  rw [exec_csum_eq, if_neg (Nat.not_lt.2 h)]

/-- An ENCODE in range completes and leaves the packet at OFF. -/
theorem exec_encode_of_inRange {s : State} (h : InRange s 16) :
    ∃ t, exec .encode s = .next t ∧ t.cfg = s.cfg ∧ offOf t = offOf s ∧
      ∀ i, i < 16 → t.pbufByte (offOf s + i) = s.regs.packet.getD i 0#8 := by
  have heq : exec .encode s =
      .next (((s.setPbuf (Memory.putAll s.pbuf (offOf s) s.regs.packet)).setResult
        s.regs.slot).setStatus 0x00000000#32) := by
    change execEncode s = _
    rw [execEncode_cases, Regs.offNat_eq_offOf, if_neg (Nat.not_lt.2 h)]
  refine ⟨_, heq, rfl, rfl, fun i hi => ?_⟩
  rw [State.setStatus_pbufByte, State.setResult_pbufByte, State.pbufByte_putAll,
    Regs.packet_length, if_pos (by omega), Nat.add_sub_cancel_left]

theorem operand_eq_of_byteAt {s : State} {d : List Byte} (hlen : lenOf s = d.length)
    (h : ∀ i, i < d.length → byteAt s i = d.getD i 0#8) : operand s = d := by
  refine List.ext_getElem (by rw [operand_length, hlen]) fun i _ hi => ?_
  rw [← List.getD_eq_getElem (d := 0#8), ← List.getD_eq_getElem (d := 0#8),
    operand_getD (hlen ▸ hi), h i hi]

/-! ### The packet -/

/-- The two bytes of a checksum in host order after the host-to-network conversion are the same in
both orders (spec/42_encoder.md R96). -/
theorem put16_hton16 (h : ByteOrder) (v : Half) :
    put16 h (hton16 h v) = [(swapBytes v).extractLsb' 0 8, (swapBytes v).extractLsb' 8 8] := by
  rw [swapBytes_low, swapBytes_high]
  cases h with
  | little =>
    rw [hton16, swap16_eq_swapBytes, (put16_eq_put2 _).1, put2, swapBytes_low, swapBytes_high]
    rfl
  | big => exact (put16_eq_put2 v).2

/-- The policy's mask keeps every bit (spec/42_encoder.md R95). -/
theorem slotValue_eq_hton16 (h : ByteOrder) (p : Policy) (id sq : Half) (ts : DWord) :
    slotValue h p id sq ts = hton16 h (checksum (zeroPacket h id sq ts)) := by
  cases p with
  | standard => rfl
  | legacyDoubleSwap => exact BitVec.and_allOnes

/-- ENCODE's packet is the zero-checksum packet with its own checksum in place. -/
theorem requestPacket_eq_patch2 (h : ByteOrder) (p : Policy) (id sq : Half) (ts : DWord) :
    requestPacket h p id sq ts =
      patch2 (zeroPacket h id sq ts) 2
        ((swapBytes (checksum (zeroPacket h id sq ts))).extractLsb' 0 8)
        ((swapBytes (checksum (zeroPacket h id sq ts))).extractLsb' 8 8) := by
  rw [requestPacket, slotValue_eq_hton16, put16_hton16]
  rfl

@[simp] theorem zeroPacket_length (h : ByteOrder) (id sq : Half) (ts : DWord) :
    (zeroPacket h id sq ts).length = 16 := by simp [zeroPacket]

/-- The packet verifies, in both orders and under both policies (spec/42_encoder.md R97). -/
theorem checksum_requestPacket (h : ByteOrder) (p : Policy) (id sq : Half) (ts : DWord) :
    checksum (requestPacket h p id sq ts) = 0x0000#16 := by
  rw [requestPacket_eq_patch2]
  exact checksum_patch2 (by simp) rfl rfl rfl

theorem put16_horder (s : State) (v : Half) : put16 s.regs.horder v = put2 (bigOf s) v := by
  unfold Regs.horder bigOf
  cases s.regs.ctrl.getLsbD 1
  · exact (put16_eq_put2 v).1
  · exact (put16_eq_put2 v).2

theorem put64_horder (s : State) (v : DWord) : put64 s.regs.horder v = put8 (bigOf s) v := by
  unfold Regs.horder bigOf
  cases s.regs.ctrl.getLsbD 1
  · exact (put64_eq_put8 v).1
  · exact (put64_eq_put8 v).2

theorem Regs.txts_eq_txtsOf (s : State) : s.regs.txts = txtsOf s := by
  rw [Regs.txts, setWidth_shiftLeft_or_setWidth, BitVec.setWidth_eq, txtsOf]

/-- Bytes 4 to 15 of the packet as the statements write them. -/
theorem packetTail_eq_requestTail (s : State) :
    packetTail s.regs.horder s.regs.ident16 s.regs.seq16 s.regs.txts = requestTail s := by
  rw [packetTail, put16_horder, put16_horder, put64_horder, Regs.txts_eq_txtsOf]
  rfl

/-- Bytes 2 and 3 of the packet are those of the complemented folded sum of the zero-checksum
packet (spec/30_encoding.md R64). -/
theorem Regs.packet_slotBytes (s : State) :
    let c := ~~~ (fold (sumPairs 0#32
      ([0x08#8, 0x00#8, 0x00#8, 0x00#8] ++ requestTail s))).extractLsb' 0 16
    s.regs.packet.getD 2 0#8 = c.extractLsb' 0 8 ∧ s.regs.packet.getD 3 0#8 = c.extractLsb' 8 8 := by
  rw [Regs.packet, requestPacket_eq_patch2, swapBytes_checksum, zeroPacket,
    packetTail_eq_requestTail]
  exact ⟨rfl, rfl⟩

end Sys2Proof.Machine

/-!
PROOFS. The statements of spec/41_checksum.md and the two of spec/42_encoder.md on the checksum of an
encoded request.
-/
namespace Sys2Proof.Proofs

open Sys2Proof.Machine Sys2Proof.Claims

/-- Settles O10: the two outcomes of CSUM. -/
theorem csumWritesTheChecksumOfItsRange : Obligations.CsumWritesTheChecksumOfItsRange := by
  refine fun s => ⟨fun hin => exec_csum_of_inRange hin, fun hout => ?_⟩
  rw [exec_csum_eq, if_pos hout]
  rfl

/-- Settles O40: `fold` has the end-around-carry value of its argument, which a pass keeps. -/
theorem foldIsTheEndAroundCarry : Obligations.FoldIsTheEndAroundCarry := by
  intro acc
  obtain ⟨hle, hzero, hmod⟩ := endAround_spec acc.toNat
  rw [← fold_toNat] at hle hzero hmod
  have hfoldzero : fold acc = 0#32 ↔ acc = 0#32 := by
    rw [BitVec.toNat_eq, BitVec.toNat_eq]
    exact hzero
  exact ⟨fold_of_le, fun _ => (fold_foldPass acc).symm, hle, hfoldzero, hmod⟩

/-- Settles O41: the accumulator is the exact sum, and the fold its end-around-carry value. -/
theorem checksumComplementsTheFoldedPairSum : Obligations.ChecksumComplementsTheFoldedPairSum :=
  fun _ hlen => swapBytes_checksum_toNat hlen

/-- Settles O42: the accumulator does not see zero bytes at the end. -/
theorem zeroPaddingKeepsTheChecksum : Obligations.ZeroPaddingKeepsTheChecksum := by
  intro d k
  rw [checksum, sumPairs_append_replicate_zero, checksum]

/-- Settles O43: only the zero sum has the value zero, and only zero bytes the zero sum. -/
theorem checksumIsAllOnesOnlyForZeroBytes : Obligations.ChecksumIsAllOnesOnlyForZeroBytes :=
  fun _ hlen => checksum_eq_allOnes_iff hlen

/-- Settles O44: the sum and its complement add up to a multiple of 0xFFFF. This needs neither the
even length nor a byte that is not zero. -/
theorem placedChecksumVerifiesToZero : Obligations.PlacedChecksumVerifiesToZero :=
  fun _ _ hlen _ hp _ h0 h1 _ => checksum_patch2 hlen hp h0 h1

/-- Settles O45: modulo 0xFFFF swapping the bytes of every word multiplies the sum by 256, which swaps
the bytes of its value. -/
theorem checksumIsByteOrderIndependent : Obligations.ChecksumIsByteOrderIndependent :=
  fun _ hlen => checksum_toNat hlen

/-- Settles O47: the packet's slot bytes, written at OFF + 2 and OFF + 3. -/
theorem slotBytesAreTheSameInBothOrders : Obligations.SlotBytesAreTheSameInBothOrders := by
  intro s c hin
  obtain ⟨hlow, hhigh⟩ := Regs.packet_slotBytes s
  obtain ⟨t, ht, -, -, hbytes⟩ := exec_encode_of_inRange hin
  exact ⟨t, ht, (hbytes 2 (by decide)).trans hlow, (hbytes 3 (by decide)).trans hhigh⟩

/-- Settles O50: the CSUM reads back the packet, which holds its own checksum. -/
theorem encodedRequestVerifies : Obligations.EncodedRequestVerifies := by
  intro s hin
  obtain ⟨t, ht, hcfg, hoff, hbytes⟩ := exec_encode_of_inRange hin
  have hin' : InRange (withRegs t { t.regs with len := 0x00000010#32 }) 16 := by
    change offOf t + 16 ≤ t.cfg.bufSize
    rwa [hcfg, hoff]
  have hread : operand (withRegs t { t.regs with len := 0x00000010#32 }) = s.regs.packet := by
    refine operand_eq_of_byteAt (Regs.packet_length _).symm fun i hi => ?_
    rw [Regs.packet_length] at hi
    rw [← hbytes i hi, ← hoff]
    rfl
  refine ⟨t, _, ht, exec_csum_of_inRange hin', ?_, rfl⟩
  rw [hread, Regs.packet, checksum_requestPacket]
  rfl

end Sys2Proof.Proofs

/-!
PROOFS. ENCODE as one equation over every state, the slot value and the packet as the statements
write them, and what PBUF holds after an ENCODE.
-/
namespace Sys2Proof.Machine

open Claims

/-! ### The outcome of ENCODE -/

theorem exec_encode_eq (s : State) :
    exec .encode s =
      if s.cfg.bufSize < offOf s + 16 then .next (s.raise .bounds)
      else .next (((s.setPbuf (Memory.putAll s.pbuf (offOf s) s.regs.packet)).setResult
        s.regs.slot).setStatus 0x00000000#32) := by
  change execEncode s = _
  rw [execEncode_cases, Regs.offNat_eq_offOf]

/-- The 16 bytes at OFF after an ENCODE in range. -/
theorem exec_encode_packetByte {s t : State} (hin : InRange s 16) (h : exec .encode s = .next t)
    {i : Nat} (hi : i < 16) : t.pbufByte (offOf s + i) = s.regs.packet.getD i 0#8 := by
  obtain ⟨t', h', -, -, hbytes⟩ := exec_encode_of_inRange hin
  cases h.symm.trans h'
  exact hbytes i hi

/-! ### The slot value and the packet -/

theorem hton16_horder (s : State) (v : Half) :
    hton16 s.regs.horder v = if bigOf s then v else swapBytes v := by
  unfold Regs.horder bigOf
  cases s.regs.ctrl.getLsbD 1
  · exact swap16_eq_swapBytes v
  · rfl

theorem Regs.slot_eq_requestSlot (s : State) : s.regs.slot = requestSlot s := by
  have hmask (v : Half) : v &&& 0xFFFF#16 = v := BitVec.and_allOnes
  rw [Regs.slot, slotValue_eq_hton16, hton16_horder, zeroPacket, packetTail_eq_requestTail,
    requestSlot, hmask, ite_self]

theorem Regs.packet_eq_requestBytes (s : State) : s.regs.packet = requestBytes s := by
  rw [requestBytes, ← Regs.slot_eq_requestSlot, ← put16_horder, ← packetTail_eq_requestTail]
  rfl

theorem Regs.horder_congr {s s' : State} (h : bigOf s = bigOf s') :
    s.regs.horder = s'.regs.horder :=
  congrArg (fun b : Bool => if b then ByteOrder.big else ByteOrder.little) h

/-- The slot value and the packet depend on HORDER, IDENT, SEQ and TXTS alone: the policy's mask keeps
every bit (spec/42_encoder.md R95, R98). -/
theorem Regs.slot_packet_congr {s s' : State} (hbig : bigOf s = bigOf s')
    (hid : identOf s = identOf s') (hseq : seqOf s = seqOf s') (hts : txtsOf s = txtsOf s') :
    s.regs.slot = s'.regs.slot ∧ s.regs.packet = s'.regs.packet := by
  have hid : s.regs.ident16 = s'.regs.ident16 := hid
  have hseq : s.regs.seq16 = s'.regs.seq16 := hseq
  have hts : s.regs.txts = s'.regs.txts := by rwa [Regs.txts_eq_txtsOf, Regs.txts_eq_txtsOf]
  rw [Regs.slot, Regs.slot, Regs.packet, Regs.packet, requestPacket, requestPacket,
    slotValue_eq_hton16, slotValue_eq_hton16, Regs.horder_congr hbig, hid, hseq, hts]
  exact ⟨rfl, rfl⟩

end Sys2Proof.Machine

/-!
PROOFS. A reply that carries the bytes of an encoded request (spec/43_parser.md R113).
-/
namespace Sys2Proof.Machine

open Claims

/-! ### MATCH of a reply that matches -/

theorem exec_match_of_matches {u : State} (hin : InRange u (lenOf u)) (h36 : 36 ≤ lenOf u)
    (hm : Matches u) :
    exec .matchReply u = .next ((loadRx u (operand u)).setStatus 0x00000070#32) := by
  obtain ⟨v, hv⟩ := exec_completes .matchReply u
  obtain ⟨hlt, -⟩ | ⟨-, hshort, -⟩ | ⟨-, -, rfl⟩ := exec_datagram_outcome (.inr rfl) hv
  · exact absurd hlt (Nat.not_lt_of_le hin)
  · omega
  · rw [hv, decide_eq_true (And.intro rfl hm), decide_eq_true h36]
    rfl

/-- With room for the timestamp, RXTS is bytes 28 to 35 of the datagram (spec/43_parser.md R102). -/
theorem loadRx_operand_rxts {u : State} (h36 : 36 ≤ lenOf u) :
    (loadRx u (operand u)).regs.rxtsHi ++ (loadRx u (operand u)).regs.rxtsLo =
      get64 u.regs.horder (slice (operand u) 28 36) := by
  rw [loadRx_regs, operand_length, if_pos h36]
  exact (BitVec.extractLsb'_append_extractLsb'_eq_extractLsb' rfl).trans BitVec.extractLsb'_eq_self

/-! ### The fields of the packet -/

theorem slice_drop (d : List Byte) (k i j : Nat) :
    slice (d.drop k) i j = slice d (k + i) (k + j) := by
  rw [slice, slice, List.drop_drop, Nat.add_sub_add_left]

theorem slice_packetTail_ident (h : ByteOrder) (id sq : Half) (ts : DWord) :
    slice (packetTail h id sq ts) 0 2 = put16 h id := by
  rw [slice, packetTail, List.append_assoc]
  exact List.take_left' (put16_length h id)

theorem slice_packetTail_timestamp (h : ByteOrder) (id sq : Half) (ts : DWord) :
    slice (packetTail h id sq ts) 4 12 = put64 h ts := by
  rw [slice, packetTail, List.drop_left' (by simp)]
  exact List.take_of_length_le (by simp)

theorem Regs.packet_drop_four (r : Regs) :
    r.packet.drop 4 = packetTail r.horder r.ident16 r.seq16 r.txts :=
  List.drop_left' (by simp)

/-- A datagram of 36 bytes that has bytes 4 to 15 of a packet at 24 to 35. -/
theorem operand_drop_eq_packet_drop {s u : State} (hlen : lenOf u = 36)
    (h : ∀ k, 4 ≤ k → k < 16 → byteAt u (20 + k) = s.regs.packet.getD k 0#8) :
    (operand u).drop 24 = s.regs.packet.drop 4 := by
  refine List.ext_getElem (by simp [hlen]) fun i _ hi => ?_
  have hi : 4 + i < 16 := by
    rw [List.length_drop, Regs.packet_length] at hi
    omega
  rw [List.getElem_drop, List.getElem_drop, ← List.getD_eq_getElem (d := 0#8),
    ← List.getD_eq_getElem (d := 0#8), operand_getD (by omega), ← h _ (by omega) hi, ← Nat.add_assoc]

end Sys2Proof.Machine

/-!
PROOFS. The statements of spec/42_encoder.md on ENCODE, and the reply to an encoded request.
-/
namespace Sys2Proof.Proofs

open Sys2Proof.Machine Sys2Proof.Claims

/-- Settles O11: the packet and the slot value are the pseudocode's, the packet is put at OFF, and no
other byte changes. -/
theorem encodeWritesTheRequest : Obligations.EncodeWritesTheRequest := by
  refine fun s => ⟨fun hin => ?_, fun hout => ?_⟩
  · have ht := (exec_encode_eq s).trans (if_neg (Nat.not_lt.2 hin))
    refine ⟨_, ht, ?_, fun i hi => ?_, fun a ha => ?_, rfl, rfl, rfl, rfl, rfl⟩
    · rw [Regs.slot_eq_requestSlot]
      rfl
    · rw [exec_encode_packetByte hin ht hi, Regs.packet_eq_requestBytes]
    · by_contra hne
      obtain ⟨-, -, hlo, hhi⟩ := exec_pbufByte ht hne
      omega
  · rw [exec_encode_eq, if_pos hout]
    rfl

/-- Settles O18: no other outcome of a command writes PBUF. -/
theorem onlyEncodeChangesPbuf : Obligations.OnlyEncodeChangesPbuf := by
  intro i s t a h hne
  obtain ⟨hi, hin, hlo, hhi⟩ := exec_pbufByte h hne
  exact ⟨hi, hlo, hhi, hin⟩

/-- Settles O48: OFF, HORDER and the operands of the packet are those of `s`, so ENCODE has the same
outcome in both states. -/
theorem policyHasNoEffect : Obligations.PolicyHasNoEffect := by
  intro s s' t t' hs' h h'
  have hbig : bigOf s' = bigOf s := by simp [hs', bigOf, withRegs]
  obtain ⟨hslot, hpacket⟩ : s'.regs.slot = s.regs.slot ∧ s'.regs.packet = s.regs.packet :=
    Regs.slot_packet_congr hbig (by rw [hs']; rfl) (by rw [hs']; rfl) (by rw [hs']; rfl)
  rw [exec_encode_eq] at h h'
  rw [hslot, hpacket, hs'] at h'
  change (if s.cfg.bufSize < offOf s + 16 then _ else _) = _ at h'
  split_ifs at h h' <;> cases h <;> cases h'
  · exact ⟨rfl, rfl, fun _ => rfl⟩
  · exact ⟨rfl, rfl, fun _ => rfl⟩

/-- Settles O49: RESULT is the slot value and the 16 bytes are the packet. This does not need the
policies to be equal. -/
theorem encodeIsDeterministicInItsOperands : Obligations.EncodeIsDeterministicInItsOperands := by
  intro s s' _ hid hseq hts hbig _ hin hin'
  obtain ⟨hslot, hpacket⟩ := Regs.slot_packet_congr hbig hid hseq hts
  have ht := (exec_encode_eq s).trans (if_neg (Nat.not_lt.2 hin))
  have ht' := (exec_encode_eq s').trans (if_neg (Nat.not_lt.2 hin'))
  refine ⟨_, _, ht, ht', congrArg (BitVec.setWidth 32) hslot, fun i hi => ?_⟩
  rw [exec_encode_packetByte hin ht hi, exec_encode_packetByte hin' ht' hi, hpacket]

/-- Settles O54: the reply's identifier and timestamp are the fields of the packet's bytes 4 to 15,
read back in the order they were written in. -/
theorem replyToAnEncodedRequestMatches : Obligations.ReplyToAnEncodedRequestMatches := by
  intro s t u hin ht hbig hid hlen hinu htype hbytes hsum
  have hpacket (k : Nat) (hk : k = 1 ∨ 4 ≤ k) (hk16 : k < 16) :
      byteAt u (20 + k) = s.regs.packet.getD k 0#8 :=
    (hbytes k hk hk16).trans (exec_encode_packetByte hin ht hk16)
  have htail : (operand u).drop 24 =
      packetTail u.regs.horder s.regs.ident16 s.regs.seq16 s.regs.txts := by
    rw [operand_drop_eq_packet_drop hlen fun k hk => hpacket k (.inr hk), Regs.packet_drop_four,
      Regs.horder_congr hbig]
  have hident : replyIdent u = identOf u := by
    rw [replyIdent, ← get16_horder, ← slice_operand_two (by omega), ← slice_drop _ 24 0 2, htail,
      slice_packetTail_ident, get16_put16, hid]
    rfl
  have hts : get64 u.regs.horder (slice (operand u) 28 36) = txtsOf s := by
    rw [← slice_drop _ 24 4 12, htail, slice_packetTail_timestamp, get64_put64,
      Regs.txts_eq_txtsOf]
  have hmatches : Matches u := ⟨hident, .inr ⟨htype, hpacket 1 (.inl rfl) (by decide), hsum⟩⟩
  have h36 : 36 ≤ lenOf u := hlen.ge
  exact ⟨_, exec_match_of_matches (hlen ▸ hinu) h36 hmatches, rfl,
    (loadRx_operand_rxts h36).trans hts⟩

end Sys2Proof.Proofs

/-!
PROOFS. PARSE and MATCH as equations over the state: one per outcome, in the order of the checks
(spec/43_parser.md R99, R106; spec/60_exceptions.md R118).
-/
namespace Sys2Proof.Machine

open Claims

/-! ### The timestamp -/

theorem slice_operand {s : State} {i n : Nat} (h : i + n ≤ lenOf s) :
    slice (operand s) i (i + n) = (List.range n).map fun k => byteAt s (i + k) := by
  refine List.ext_getElem (by simp [slice]; omega) fun k _ _ => ?_
  simp [slice, operand]

/-- A 64-bit field in the host byte order, as R11 writes it. -/
theorem get64_horder (s : State) (b : Nat → Byte) :
    get64 s.regs.horder ((List.range 8).map b) = get8 (bigOf s) b := by
  unfold Regs.horder bigOf
  cases s.regs.ctrl.getLsbD 1
  · exact (get64_eq_get8 b).1
  · exact (get64_eq_get8 b).2

theorem get64_operand {s : State} (h : 36 ≤ lenOf s) :
    get64 s.regs.horder (slice (operand s) 28 36) = replyTs s := by
  rw [slice_operand (i := 28) (n := 8) h, get64_horder, replyTs]

/-- With room for the timestamp, loading the datagram loads its header and its timestamp. -/
theorem loadRx_operand_of_ge {s : State} (h : 36 ≤ lenOf s) :
    loadRx s (operand s) = withRegs s (headerTsRegs s) := by
  have hts : hasTimestamp (operand s) = true := by simpa [hasTimestamp] using h
  have h28 : 28 ≤ lenOf s := by omega
  rw [loadRx, loadTimestamp, hts, if_pos rfl, loadHeader, header0_operand h28, header1_operand h28,
    get64_operand h]
  rfl

/-! ### The outcomes -/

section
variable {i : Instr} {s : State} (hi : i = .parse ∨ i = .matchReply)
include hi

theorem exec_datagram_of_outOfRange (hout : s.cfg.bufSize < offOf s + lenOf s) :
    exec i s = .next (withStatus s 0x00000002#32) := by
  rw [exec_eq_withDatagram hi, withDatagram_cases, Regs.offNat_eq_offOf, Regs.lenNat_eq_lenOf,
    if_pos hout]
  rfl

theorem exec_datagram_of_short (hin : InRange s (lenOf s)) (hshort : lenOf s < 28) :
    exec i s = .next (withStatus s 0x00000001#32) := by
  rw [exec_eq_withDatagram hi, withDatagram_cases, Regs.offNat_eq_offOf, Regs.lenNat_eq_lenOf,
    if_neg (Nat.not_lt.2 hin), if_pos hshort]
  rfl

theorem exec_datagram_of_loads (hin : InRange s (lenOf s)) (h28 : 28 ≤ lenOf s) :
    exec i s = .next ((loadRx s (operand s)).setStatus
      (matchStatus (decide (i = .matchReply ∧ Matches s)) (decide (36 ≤ lenOf s)))) := by
  obtain ⟨t, ht⟩ := exec_completes i s
  obtain ⟨hout, -⟩ | ⟨-, hshort, -⟩ | ⟨-, -, rfl⟩ := exec_datagram_outcome hi ht
  · exact absurd hout (Nat.not_lt.2 hin)
  · exact absurd hshort (Nat.not_lt.2 h28)
  · exact ht

theorem exec_datagram_with_timestamp (hin : InRange s (lenOf s)) (h36 : 36 ≤ lenOf s) :
    exec i s = .next (withRegs s { headerTsRegs s with
      status := matchStatus (decide (i = .matchReply ∧ Matches s)) true }) := by
  rw [exec_datagram_of_loads hi hin (by omega), loadRx_operand_of_ge h36, decide_eq_true h36]
  rfl

theorem exec_datagram_header_only (hin : InRange s (lenOf s)) (h28 : 28 ≤ lenOf s)
    (h36 : lenOf s < 36) :
    exec i s = .next (withRegs s { headerRegs s with
      status := matchStatus (decide (i = .matchReply ∧ Matches s)) false }) := by
  rw [exec_datagram_of_loads hi hin h28, loadRx_operand_of_lt h28 h36,
    decide_eq_false (Nat.not_le.2 h36)]
  rfl

end

end Sys2Proof.Machine

/-!
PROOFS. The statements of spec/43_parser.md on PARSE and MATCH.
-/
namespace Sys2Proof.Proofs

open Sys2Proof.Machine Sys2Proof.Claims

/-- Settles O12: PARSE has the outcomes of a datagram command that never matches. -/
theorem parseLoadsTheDatagram : Obligations.ParseLoadsTheDatagram := by
  have hi : Instr.parse = .parse ∨ Instr.parse = .matchReply := .inl rfl
  intro s
  have hno : ¬ (Instr.parse = .matchReply ∧ Matches s) := fun h => nomatch h.1
  refine ⟨fun hin h36 => ?_, fun hin h28 h36 => ?_, exec_datagram_of_short hi,
    exec_datagram_of_outOfRange hi⟩
  · rw [exec_datagram_with_timestamp hi hin h36, decide_eq_false hno]
    rfl
  · rw [exec_datagram_header_only hi hin h28 h36, decide_eq_false hno]
    rfl

/-- Settles O13: MATCH loads what PARSE loads, and the match predicate decides STATUS. -/
theorem matchDecidesTheReply : Obligations.MatchDecidesTheReply := by
  have hi : Instr.matchReply = .parse ∨ Instr.matchReply = .matchReply := .inr rfl
  refine fun s => ⟨fun hin h36 hm => ?_, fun hin h36 hm => ?_, fun hin h28 h36 hm => ?_,
    fun hin h28 h36 hm => ?_, exec_datagram_of_short hi, exec_datagram_of_outOfRange hi⟩
  · rw [exec_datagram_with_timestamp hi hin h36, decide_eq_true (And.intro rfl hm)]
    rfl
  · rw [exec_datagram_with_timestamp hi hin h36, decide_eq_false (mt And.right hm)]
    rfl
  · rw [exec_datagram_header_only hi hin h28 h36, decide_eq_true (And.intro rfl hm)]
    rfl
  · rw [exec_datagram_header_only hi hin h28 h36, decide_eq_false (mt And.right hm)]
    rfl

/-- Settles O51: the MATCH bit means that the match predicate holds, and that needs equal
identifiers. -/
theorem differentIdentifierNeverMatches : Obligations.DifferentIdentifierNeverMatches := by
  intro s t hne h
  obtain ⟨-, -, hbit⟩ := statusBitsSayWhatTheyMean .matchReply s t nofun h
  refine Bool.eq_false_iff.2 fun hset => ?_
  obtain ⟨-, -, -, hident, -⟩ := hbit.1 hset
  exact hne hident

/-- Settles O52: in permissive mode equal identifiers are the whole match predicate. -/
theorem permissiveModeMatchesOnTheIdentifier :
    Obligations.PermissiveModeMatchesOnTheIdentifier := by
  refine ⟨by decide, fun s hstrict hin h36 hident => ?_⟩
  have hm : Matches s := ⟨hident, .inl hstrict⟩
  exact ⟨_, exec_match_of_matches hin h36 hm, rfl⟩

end Sys2Proof.Proofs

/-!
PROOFS. The BOUNDS check as one dichotomy over every command with a range, and STATUS of a datagram
command that passed its checks (spec/60_exceptions.md R117, R118).
-/
namespace Sys2Proof.Machine

open Claims

/-! ### The STATUS word of a loaded datagram -/

theorem matchStatus_ne_bounds (isM hasTs : Bool) : matchStatus isM hasTs ≠ 0x00000002#32 := by
  cases isM <;> cases hasTs <;> decide

/-- DecodeError with the header loaded: a match without its timestamp (spec/43_parser.md R108). -/
theorem matchStatus_eq_headerDecodeError_iff (isM hasTs : Bool) :
    matchStatus isM hasTs = 0x00000011#32 ↔ isM = true ∧ hasTs = false := by
  cases isM <;> cases hasTs <;> decide

theorem exec_datagram_status_of_loads {i : Instr} {s t : State} (hi : i = .parse ∨ i = .matchReply)
    (h : exec i s = .next t) (hin : InRange s (lenOf s)) (h28 : 28 ≤ lenOf s) :
    t.regs.status =
      matchStatus (decide (i = .matchReply ∧ Matches s)) (decide (36 ≤ lenOf s)) := by
  cases h.symm.trans (exec_datagram_of_loads hi hin h28)
  rfl

/-! ### The BOUNDS check -/

/-- A command with a range either reports BOUNDS and does nothing else, or its range fits and it
reports something else. -/
theorem exec_bounds_or_inRange {i : Instr} {s t : State} {n : Nat} (hn : rangeLen s i = some n)
    (h : exec i s = .next t) :
    (s.cfg.bufSize < offOf s + n ∧ t = withStatus s 0x00000002#32) ∨
    (InRange s n ∧ t.regs.status ≠ 0x00000002#32) := by
  have hdatagram (hi : i = .parse ∨ i = .matchReply) : lenOf s = n :=
    Option.some.inj ((rangeLen_of_datagram hi s).symm.trans hn)
  have hnone : statusWord .none false false false ≠ 0x00000002#32 := by decide
  have hdecode : statusWord .decodeError false false false ≠ 0x00000002#32 := by decide
  obtain ⟨rfl, -⟩ | ⟨m, hm, hlt, rfl⟩ | ⟨hi, hin, -, rfl⟩ | ⟨rfl, hin, rfl⟩ | ⟨rfl, hin, rfl⟩ |
      ⟨hi, hin, -, rfl⟩ := exec_outcome h
  · exact nomatch hn
  · cases hm.symm.trans hn
    exact .inl ⟨hlt, rfl⟩
  · exact .inr ⟨hdatagram hi ▸ hin, hdecode⟩
  · cases hn
    exact .inr ⟨hin, hnone⟩
  · cases hn
    exact .inr ⟨hin, hnone⟩
  · exact .inr ⟨hdatagram hi ▸ hin, matchStatus_ne_bounds _ _⟩

theorem exec_eq_withStatus_of_outOfRange {i : Instr} {s t : State} {n : Nat}
    (hn : rangeLen s i = some n) (h : exec i s = .next t) (hout : s.cfg.bufSize < offOf s + n) :
    t = withStatus s 0x00000002#32 := by
  obtain ⟨-, ht⟩ | ⟨hin, -⟩ := exec_bounds_or_inRange hn h
  · exact ht
  · exact absurd hout (Nat.not_lt.2 hin)

end Sys2Proof.Machine

/-!
PROOFS. The statements of spec/60_exceptions.md: when BOUNDS is reported, and the order of the errors.
-/
namespace Sys2Proof.Proofs

open Sys2Proof.Machine Sys2Proof.Claims

/-- Settles O15: the BOUNDS check leaves two cases, and only the first has STATUS 2. -/
theorem boundsExactlyWhenTheRangeDoesNotFit :
    Obligations.BoundsExactlyWhenTheRangeDoesNotFit := by
  intro i s t n hn h
  refine ⟨⟨fun hst => ?_, fun hout => ?_⟩, exec_eq_withStatus_of_outOfRange hn h⟩
  · obtain ⟨hout, -⟩ | ⟨-, hne⟩ := exec_bounds_or_inRange hn h
    · exact hout
    · exact absurd hst hne
  · rw [exec_eq_withStatus_of_outOfRange hn h hout]
    rfl

/-- Settles O16: an illegal word runs no command, BOUNDS is checked before LEN, LEN before the datagram
is loaded, and then only a match can miss its timestamp. -/
theorem firstErrorInOrderIsReported : Obligations.FirstErrorInOrderIsReported := by
  refine ⟨fun s rest w t hi hrel hillegal h => ?badCmd, fun i s t n hn h hout => ?bounds,
    fun i s t hi h hin hshort => ?short, fun s t h hin h28 => ?matchReply,
    fun s t h hin h28 => ?parse⟩
  case badCmd =>
    cases h.symm.trans (step_cmdWrite_of_illegal hi hrel hillegal)
    rfl
  case bounds =>
    rw [exec_eq_withStatus_of_outOfRange hn h hout]
    rfl
  case short =>
    cases h.symm.trans (exec_datagram_of_short hi hin hshort)
    rfl
  case matchReply =>
    rw [exec_datagram_status_of_loads (.inr rfl) h hin h28, matchStatus_eq_headerDecodeError_iff,
      decide_eq_true_iff, decide_eq_false_iff_not, Nat.not_le, and_comm]
    exact and_congr_right fun _ => and_iff_right rfl
  case parse =>
    rw [exec_datagram_status_of_loads (.inl rfl) h hin h28]
    by_contra herr
    obtain ⟨hmatch, -⟩ := matchStatus_err herr
    exact nomatch (of_decide_eq_true hmatch).1

end Sys2Proof.Proofs

/-!
PROOFS. The reset input: the step that asserts or releases it, a register write under it, and a
reset that falls into a CMD write (spec/70_reset_and_hazards.md R128, R133).
-/
namespace Sys2Proof.Machine

open Claims

/-! ### Power-up -/

/-- The invariant after power-up (spec/70_reset_and_hazards.md R129). -/
theorem State.powerUp_wf {p : Params} (h : p.wf = true) : (State.powerUp p).wf = true :=
  (State.wf_iff_of_released rfl).2 ⟨h, rfl, Regs.reset_wf⟩

/-! ### Asserting and releasing the input -/

theorem step_assertReset {s : State} {rest : List Event} (h : s.inbox = .rst true :: rest) :
    step s = .next (taken s rest).assertReset :=
  step_of_cons h

theorem step_releaseReset {s : State} {rest : List Event} (h : s.inbox = .rst false :: rest) :
    step s = .next (taken s rest).releaseReset :=
  step_of_cons h

theorem step_releaseReset_of_asserted {s : State} {rest : List Event}
    (h : s.inbox = .rst false :: rest) (hrst : s.rst = true) :
    step s = .next { taken s rest with regs := Regs.reset, rst := false } :=
  (step_releaseReset h).trans (congrArg _ (if_pos hrst))

theorem step_releaseReset_of_released {s : State} {rest : List Event}
    (h : s.inbox = .rst false :: rest) (hrel : s.rst = false) : step s = .next (taken s rest) :=
  (step_releaseReset h).trans (congrArg _ (if_neg (ne_true_of_eq_false hrel)))

/-- While the input is asserted a write that reaches the register block is served and has no effect,
CMD included. -/
theorem step_regWrite_of_asserted {s : State} {rest : List Event} {o : Nat} {v : Word}
    (h : s.inbox = .access ⟨.write, .w32, o, v⟩ :: rest) (hrst : s.rst = true) (hlt : o < 0x1000)
    (hal : o % 4 = 0) : step s = .next (taken s rest) := by
  have hheld : (taken s rest).rst ≠ false := by simp [taken, hrst]
  have hok : ¬ RefusedAccess ⟨.write, .w32, o, v⟩ := by
    simp only [RefusedAccess, ne_eq, not_true_eq_false, false_or]
    omega
  rw [step_of_access h]
  obtain ⟨hrefused, -⟩ | ⟨-, t, ht⟩ := serveAccess_outcome ⟨.write, .w32, o, v⟩ (taken s rest)
  · exact absurd hrefused hok
  · obtain ⟨hd, -⟩ | ⟨-, -, rfl⟩ | ⟨-, hrel, -⟩ | ⟨-, hrel, -⟩ | ⟨-, hwin, -⟩ := serveAccess_next ht
    · cases hd
    · exact ht
    · exact absurd hrel hheld
    · exact absurd hrel hheld
    · exact absurd hwin (Nat.not_le_of_lt hlt)

/-! ### A reset during a CMD write -/

@[simp] theorem State.resetDuringCmd_regs (s : State) (w : Word) :
    (s.resetDuringCmd w).regs = Regs.reset := by
  obtain heq | ⟨-, -, -, heq⟩ := s.resetDuringCmd_cases w <;> rw [heq] <;> rfl

@[simp] theorem State.resetDuringCmd_rst (s : State) (w : Word) :
    (s.resetDuringCmd w).rst = true := by
  obtain heq | ⟨-, -, -, heq⟩ := s.resetDuringCmd_cases w <;> rw [heq] <;> rfl

@[simp] theorem State.resetDuringCmd_rdata (s : State) (w : Word) :
    (s.resetDuringCmd w).rdata = s.rdata := by
  obtain heq | ⟨-, -, -, heq⟩ := s.resetDuringCmd_cases w <;> rw [heq] <;> rfl

theorem step_rstDuringCmd {s : State} {rest : List Event} {w : Word}
    (h : s.inbox = .rstDuringCmd w :: rest) : step s = .next ((taken s rest).resetDuringCmd w) :=
  step_of_cons h

/-- Reading PBUF after a write that a reset fell into: the new byte where the draw took it. -/
theorem State.pbufByte_putDrawn (s : State) (a : Nat) (keep : Nat → Bool) (d : List Byte)
    (y : Nat) :
    (s.setPbuf (Memory.putDrawn s.pbuf a keep 0 d)).pbufByte y =
      if a ≤ y ∧ y < a + d.length ∧ keep (y - a) = true then d.getD (y - a) 0#8
      else s.pbufByte y := by
  simp only [State.pbufByte, State.setPbuf_pbuf, Memory.get_putDrawn, Nat.add_zero]
  split
  · next h =>
    have hlt : y - a < d.length := by omega
    simp [List.getD_eq_getElem?_getD, hlt]
  · rfl

/-- A byte that a reset during a CMD write changed is a byte of the interrupted ENCODE's packet. -/
theorem State.resetDuringCmd_changedByte {s : State} {w : Word} {a : Nat}
    (hne : (s.resetDuringCmd w).pbufByte a ≠ s.pbufByte a) :
    (s.resetDuringCmd w).pbufByte a = (requestBytes s).getD (a - offOf s) 0#8 := by
  obtain heq | ⟨-, -, -, heq⟩ := s.resetDuringCmd_cases w
  · exact absurd (by rw [heq, State.assertReset_pbufByte]) hne
  · have hbyte := (State.pbufByte_congr (congrArg State.pbuf heq) a).trans
      (s.pbufByte_putDrawn s.regs.offNat (Config.resetDraw s.draws) s.regs.packet a)
    split at hbyte
    · rwa [Regs.offNat_eq_offOf, Regs.packet_eq_requestBytes] at hbyte
    · exact absurd hbyte hne

end Sys2Proof.Machine

/-!
PROOFS. The statements of spec/70_reset_and_hazards.md: power-up, the reset input, a reset during a
CMD write.
-/
namespace Sys2Proof.Proofs

open Sys2Proof.Machine Sys2Proof.Claims

/-- Settles O38: the two movements of the input, and a register write while it is asserted. -/
theorem resetInputHoldsTheRegisters : Obligations.ResetInputHoldsTheRegisters :=
  fun _ _ => ⟨step_assertReset, step_releaseReset_of_asserted, step_releaseReset_of_released,
    fun _ _ => step_regWrite_of_asserted⟩

/-- Settles O39: only an ENCODE in range changes a byte, and then to its packet's byte. -/
theorem resetDuringCommandLeavesOldOrNewBytes :
    Obligations.ResetDuringCommandLeavesOldOrNewBytes := by
  intro s rest w hi
  refine ⟨_, step_rstDuringCmd hi, State.resetDuringCmd_regs _ w, State.resetDuringCmd_rst _ w,
    State.resetDuringCmd_cfg _ w, State.resetDuringCmd_inbox _ w, State.resetDuringCmd_rdata _ w,
    fun a => or_iff_not_imp_left.2 fun hne => ?_⟩
  obtain ⟨hw, hrel, hin, hlo, hhi⟩ := State.resetDuringCmd_pbufByte hne
  exact ⟨hw, hrel, hin, hlo, hhi, State.resetDuringCmd_changedByte hne⟩

/-- Settles O1: the values after power-up are those a reset event leaves, and `State.reset` is the
power-up state of the default parameters. -/
theorem powerUpAndResetLeaveResetValues : Obligations.PowerUpAndResetLeaveResetValues :=
  fun _ => ⟨rfl, rfl, Params.info_toNat, fun _ => rfl,
    fun s rest hi => ⟨(taken s rest).assertReset, step_assertReset hi, rfl, rfl, fun _ => rfl⟩,
    Params.standard, by decide, rfl⟩

/-- Settles O2: the default parameters are legal, so reset is one case of power-up. -/
theorem legalStateAtReset : Obligations.LegalStateAtReset :=
  ⟨fun _ => State.powerUp_wf, State.powerUp_wf (by decide)⟩

end Sys2Proof.Proofs
